-- ==== Sys2Proof/Word.lean ====
section
/-! DEFINITION. The widths of the block's fixed-width values (00_scope.md R8, 30_encoding.md R55 to R58). -/

namespace Sys2Proof

/-- An 8-bit value: a data byte, a CRC byte, the opcode field, the `crc` register. -/
abbrev Byte := BitVec 8

/-- An uninterpreted 16-bit pattern: the `w` of format H (30_encoding.md R57, R58). -/
abbrev Half := BitVec 16

/-- A 32-bit value: the `arg` field of an operation word, the `res` field of a response (R55, R56). -/
abbrev Word32 := BitVec 32

/-- The 40-bit operation word, `op` in bits 39:32 and `arg` in bits 31:0 (30_encoding.md R55). -/
abbrev OpWord := BitVec 40

end Sys2Proof
end

