-- ==== Sys2Proof/Syntax.lean ====
section
/-! DEFINITION. The 13 operations of 30_encoding.md R60, one constructor per row of spec/opcode_table.json, in the
table's order. -/

namespace Sys2Proof

/-- An operation with its operands as 30_encoding.md R58 reads them: bytes and the 16-bit word of `CRC.GEN2` are
bit patterns; a tick operand `t = signed(arg[15:0])` and the offset `X = signed(arg[31:0])` are integers, whose
ranges `Instr.wellFormed` checks. -/
inductive Instr where
  /-- `CRC.SEED` (R91). -/
  | crcSeed
  /-- `CRC.UPD d` (R92). -/
  | crcUpd (d : Byte)
  /-- `CRC.GET` (R93). -/
  | crcGet
  /-- `CRC.CHK e` (R94). -/
  | crcChk (e : Byte)
  /-- `CRC.GEN1 d` (R95). -/
  | crcGen1 (d : Byte)
  /-- `CRC.GEN2 w` (R96). -/
  | crcGen2 (w : Half)
  /-- `CRC.CHK1 d, e` (R97). -/
  | crcChk1 (d e : Byte)
  /-- `CRC.CHK2 d0, d1, e` (R98). -/
  | crcChk2 (d0 d1 e : Byte)
  /-- `CVT.VOC t` (R119). -/
  | cvtVoc (t : Int)
  /-- `CVT.RH t` (R120). -/
  | cvtRh (t : Int)
  /-- `CVT.TC t` (R121). -/
  | cvtTc (t : Int)
  /-- `CVT.TF t` (R122). -/
  | cvtTf (t : Int)
  /-- `CVT.TOE X` (R123). -/
  | cvtToe (x : Int)
deriving DecidableEq, Repr

/-- The mnemonic of each operation (R60). -/
def Instr.mnemonic : Instr → String
  | .crcSeed => "CRC.SEED"
  | .crcUpd _ => "CRC.UPD"
  | .crcGet => "CRC.GET"
  | .crcChk _ => "CRC.CHK"
  | .crcGen1 _ => "CRC.GEN1"
  | .crcGen2 _ => "CRC.GEN2"
  | .crcChk1 _ _ => "CRC.CHK1"
  | .crcChk2 _ _ _ => "CRC.CHK2"
  | .cvtVoc _ => "CVT.VOC"
  | .cvtRh _ => "CVT.RH"
  | .cvtTc _ => "CVT.TC"
  | .cvtTf _ => "CVT.TF"
  | .cvtToe _ => "CVT.TOE"

/-- The streaming operations of the glossary (00_scope.md R12): they read or write `crc`. The others are one-shot. -/
def Instr.streaming : Instr → Bool
  | .crcSeed => true
  | .crcUpd _ => true
  | .crcGet => true
  | .crcChk _ => true
  | .crcGen1 _ => false
  | .crcGen2 _ => false
  | .crcChk1 _ _ => false
  | .crcChk2 _ _ _ => false
  | .cvtVoc _ => false
  | .cvtRh _ => false
  | .cvtTc _ => false
  | .cvtTf _ => false
  | .cvtToe _ => false

end Sys2Proof
end

