-- ==== Sys2Proof/WellFormed.lean ====
section
/-! DEFINITION. The operand ranges of 30_encoding.md R58. Bytes and 16-bit patterns carry their range in their
type; the two integer operands are checked here. -/

namespace Sys2Proof

/-- A tick operand is a signed 16-bit integer, -32768 to 32767 (30_encoding.md R58, 41_convert.md R110). -/
def ticksInRange (t : Int) : Bool := decide (-32768 ≤ t ∧ t ≤ 32767)

/-- The operand of `CVT.TOE` is a signed 32-bit integer, -2^31 to 2^31 - 1 (30_encoding.md R58, R67). -/
def offsetInRange (x : Int) : Bool := decide (-2147483648 ≤ x ∧ x ≤ 2147483647)

/-- Every operand has a value its field can hold. -/
def Instr.wellFormed : Instr → Bool
  | .crcSeed => true
  | .crcUpd _ => true
  | .crcGet => true
  | .crcChk _ => true
  | .crcGen1 _ => true
  | .crcGen2 _ => true
  | .crcChk1 _ _ => true
  | .crcChk2 _ _ _ => true
  | .cvtVoc t => ticksInRange t
  | .cvtRh t => ticksInRange t
  | .cvtTc t => ticksInRange t
  | .cvtTf t => ticksInRange t
  | .cvtToe x => offsetInRange x

end Sys2Proof
end

