-- ==== Sys2Proof/Decode.lean ====
section
/-! DEFINITION. Decoding (30_encoding.md R55 to R66), total on the 2^40 operation words, and the encoder. The block
takes operation words directly (20_memory.md R47), so a word is one 40-bit number and has no byte order. -/

namespace Sys2Proof

/-- `op = W[39:32]` (R55). -/
def opField (w : OpWord) : Byte := w.extractLsb' 32 8

/-- `arg[7:0]`: the operand of format B, the CRC byte of formats G1 and G2 (R57). -/
def argByte0 (w : OpWord) : Byte := w.extractLsb' 0 8

/-- `arg[15:8]`: the data byte of format G1, the second data byte of format G2 (R57). -/
def argByte1 (w : OpWord) : Byte := w.extractLsb' 8 8

/-- `arg[23:16]`: the first data byte of format G2 (R57). -/
def argByte2 (w : OpWord) : Byte := w.extractLsb' 16 8

/-- `arg[15:0]`: the operand of format H (R57). -/
def argHalf (w : OpWord) : Half := w.extractLsb' 0 16

/-- `t = signed(arg[15:0])` (R58). -/
def argTicks (w : OpWord) : Int := (argHalf w).toInt

/-- `X = signed(arg[31:0])` (R58). -/
def argOffset (w : OpWord) : Int := (w.extractLsb' 0 32 : Word32).toInt

/-- One row of the opcode map of R60: the match and mask columns and the operands of R58. -/
structure Row where
  /-- the mnemonic column -/
  mnemonic : String
  /-- the match column -/
  matchBits : OpWord
  /-- the mask column -/
  mask : OpWord
  /-- the operation the row stands for, with its operand fields extracted -/
  operands : OpWord → Instr

/-- A word selects a row exactly when `(W & mask) == match` (R60). -/
def Row.selects (r : Row) (w : OpWord) : Bool := w &&& r.mask == r.matchBits

/-- The streaming CRC rows of R60. -/
def streamRows : List Row :=
  [ ⟨"CRC.SEED", 0x1000000000, 0xFFFFFFFFFF, fun _ => .crcSeed⟩,
    ⟨"CRC.UPD", 0x1100000000, 0xFFFFFFFF00, fun w => .crcUpd (argByte0 w)⟩,
    ⟨"CRC.GET", 0x1200000000, 0xFFFFFFFFFF, fun _ => .crcGet⟩,
    ⟨"CRC.CHK", 0x1300000000, 0xFFFFFFFF00, fun w => .crcChk (argByte0 w)⟩ ]

/-- The one-shot CRC rows of R60. -/
def groupRows : List Row :=
  [ ⟨"CRC.GEN1", 0x1800000000, 0xFFFFFFFF00, fun w => .crcGen1 (argByte0 w)⟩,
    ⟨"CRC.GEN2", 0x1900000000, 0xFFFFFF0000, fun w => .crcGen2 (argHalf w)⟩,
    ⟨"CRC.CHK1", 0x1A00000000, 0xFFFFFF0000, fun w => .crcChk1 (argByte1 w) (argByte0 w)⟩,
    ⟨"CRC.CHK2", 0x1B00000000, 0xFFFF000000, fun w => .crcChk2 (argByte2 w) (argByte1 w) (argByte0 w)⟩ ]

/-- The conversion rows of R60. -/
def convertRows : List Row :=
  [ ⟨"CVT.VOC", 0x2000000000, 0xFFFFFF0000, fun w => .cvtVoc (argTicks w)⟩,
    ⟨"CVT.RH", 0x2100000000, 0xFFFFFF0000, fun w => .cvtRh (argTicks w)⟩,
    ⟨"CVT.TC", 0x2200000000, 0xFFFFFF0000, fun w => .cvtTc (argTicks w)⟩,
    ⟨"CVT.TF", 0x2300000000, 0xFFFFFF0000, fun w => .cvtTf (argTicks w)⟩,
    ⟨"CVT.TOE", 0x2800000000, 0xFF00000000, fun w => .cvtToe (argOffset w)⟩ ]

/-- The opcode map of R60, in table order. -/
def opcodeMap : List Row := streamRows ++ groupRows ++ convertRows

/-- Why a word is illegal (R143): its opcode is reserved (R62), or its opcode is defined and a reserved `arg` bit
is one (R63). The block answers both alike. -/
inductive DecodeError where
  | reservedOpcode
  | reservedArgBits
deriving DecidableEq, Repr

/-- The opcode is one of the 13 of R60; the other 243 are reserved (R62). -/
def opcodeDefined (op : Byte) : Bool := opcodeMap.any fun r => opField r.matchBits == op

/-- The decode procedure of R61: the first row the word selects, its operands extracted, or `Illegal` (by name). -/
def decode (w : OpWord) : Except DecodeError Instr :=
  match opcodeMap.find? fun r => r.selects w with
  | some r => .ok (r.operands w)
  | none => .error (if opcodeDefined (opField w) then .reservedArgBits else .reservedOpcode)

/-- The word is legal: it matches a row of R60. -/
def isLegal (w : OpWord) : Bool := opcodeMap.any fun r => r.selects w

/-- The table's numbering of an instruction's bits: one 40-bit word, every bit at or above `nbits` zero. -/
def tableWord (nbits w : Nat) : OpWord := BitVec.ofNat 40 (w % 2 ^ nbits)

/-- The instruction the decoder reads from the bits `w` of an opcode-table row `nbits` wide. -/
def decodeTableWord (nbits w : Nat) : Option Instr := (decode (tableWord nbits w)).toOption

/-- The operation word `{op, arg}` (R55). -/
def opWord (op : Byte) (arg : Word32) : OpWord := op ++ arg

/-- Format B: one byte (R57). -/
def argB (b : Byte) : Word32 := 0#24 ++ b

/-- Format H: one 16-bit value (R57). -/
def argH (h : Half) : Word32 := 0#16 ++ h

/-- Format H with a tick operand, its 16-bit two's-complement pattern, not sign-extended (R58). -/
def argT (t : Int) : Word32 := argH (BitVec.ofInt 16 t)

/-- Format G1: one data byte, then the CRC byte (R57). -/
def argG1 (d e : Byte) : Word32 := 0#16 ++ d ++ e

/-- Format G2: two data bytes in wire order, then the CRC byte (R57). -/
def argG2 (d0 d1 e : Byte) : Word32 := 0#8 ++ d0 ++ d1 ++ e

/-- Format W: one 32-bit value (R57). -/
def argW (x : Int) : Word32 := BitVec.ofInt 32 x

/-- The word of an operation, from the encodings of R57 and R60. -/
def encode : Instr → OpWord
  | .crcSeed => opWord 0x10 0
  | .crcUpd d => opWord 0x11 (argB d)
  | .crcGet => opWord 0x12 0
  | .crcChk e => opWord 0x13 (argB e)
  | .crcGen1 d => opWord 0x18 (argB d)
  | .crcGen2 w => opWord 0x19 (argH w)
  | .crcChk1 d e => opWord 0x1A (argG1 d e)
  | .crcChk2 d0 d1 e => opWord 0x1B (argG2 d0 d1 e)
  | .cvtVoc t => opWord 0x20 (argT t)
  | .cvtRh t => opWord 0x21 (argT t)
  | .cvtTc t => opWord 0x22 (argT t)
  | .cvtTf t => opWord 0x23 (argT t)
  | .cvtToe x => opWord 0x28 (argW x)

end Sys2Proof
end

