-- ==== Sys2Proof/Config.lean ====
section
/-! DEFINITION. What an instance fixes at construction (00_scope.md R5, R6; 10_state.md R20, R25). No operation
reads these out or writes them. The spec leaves no value of the block unconstrained (93_implementation_defined.md,
end of section 1), so there is no free value here. -/

namespace Sys2Proof

/-- The `Config` record of 10_state.md R20: the parameters over which the spec lets a model quantify. The width of
the CRC is 8 and there is no output XOR and no reflection: these are not parameters (R5). The type of `toffLimitX`
is the range 0 to 10737254 of R6, so a limit outside it cannot be expressed (93_implementation_defined.md U4). -/
structure Config where
  /-- `CRC_POLY` (R5). -/
  crcPoly : Byte
  /-- `CRC_INIT` (R5). -/
  crcInit : Byte
  /-- `TOFF_LIMIT_X`, a Q16.16 value in 0 to 10737254 (R6). -/
  toffLimitX : Fin 10737255
deriving DecidableEq, Repr

/-- The values of this hardware (R5, R6): polynomial 0x31, initial value 0xFF, offset limit 30.0. -/
def Config.svm40 : Config where
  crcPoly := 0x31
  crcInit := 0xFF
  toffLimitX := ⟨0x001E0000, by decide⟩

/-- `TOFF_LIMIT_X` as the integer that R123 compares with. -/
def Config.toffLimit (c : Config) : Int := c.toffLimitX.val

/-- `VOC_DIV`: VOC index = ticks / 10 (R6, R111). -/
def vocDiv : Nat := 10
/-- `RH_DIV`: %RH = ticks / 100 (R6, R111). -/
def rhDiv : Nat := 100
/-- `T_DIV`: °C = ticks / 200 (R6, R111). -/
def tDiv : Nat := 200
/-- `TOFF_SCALE`: offset ticks = round(°C × 200) (R6, R111). -/
def toffScale : Int := 200
/-- `MS_SHIFT`: the right-shift distance of the multiply-shift datapath (R6, R114). -/
def msShift : Nat := 24
/-- The rounding constant of the multiply-shift datapath, 2^23 (R114). -/
def msRound : Int := 0x800000
/-- `K_VOC` (R6, R115). -/
def kVoc : Nat := 0x199999999A
/-- `K_RH` (R6, R115). -/
def kRh : Nat := 0x28F5C28F6
/-- `K_TC` (R6, R115). -/
def kTc : Nat := 0x147AE147B
/-- `K_TF` (R6, R115). -/
def kTf : Nat := 0x24DD2F1AA
/-- `TF_OFFSET`: 32.0 in Q16.16 (R6). -/
def tfOffset : Int := 0x00200000

end Sys2Proof
end

