-- ==== Sys2Proof/Machine/FixedPoint.lean ====
section
/-! DEFINITION. The fixed-point arithmetic of the converter (41_convert.md sections 1 and 2). All of it is exact
integer arithmetic; a value is narrowed only where it is delivered (R116). -/

namespace Sys2Proof.Machine

/-- `v >>a k`: floor division by 2^k, for negative `v` too (00_scope.md R8). -/
def asr (v : Int) (k : Nat) : Int := v / 2 ^ k

/-- The multiply-and-shift datapath (R114). -/
def mulshift (t : Int) (k : Nat) : Int := asr (t * k + msRound) msShift

/-- Rounding a Q16.16 product to an integer, ties to even (R117). -/
def rneDiv65536 (p : Int) : Int :=
  let q := asr p 16
  let r := p % 65536
  if r > 0x8000 then q + 1
  else if r = 0x8000 ∧ q % 2 = 1 then q + 1
  else q

/-- The VOC index of `t` ticks, as delivered before narrowing (R119). -/
def vocValue (t : Int) : Int := mulshift t kVoc

/-- The relative humidity of `t` ticks, as delivered before narrowing (R120). -/
def rhValue (t : Int) : Int := mulshift t kRh

/-- The Celsius temperature of `t` ticks, as delivered before narrowing (R121). -/
def tcValue (t : Int) : Int := mulshift t kTc

/-- The Fahrenheit temperature of `t` ticks, computed from the ticks in one step (R122). -/
def tfValue (t : Int) : Int := mulshift t kTf + tfOffset

/-- The ticks of the offset `x`, round(x × 200) with ties to even (R123). -/
def toeTicks (x : Int) : Int := rneDiv65536 (x * toffScale)

/-- The rational number a Q16.16 pattern stands for (00_scope.md R10). -/
def q16Value (v : Word32) : ℚ := (v.toInt : ℚ) / 65536

/-- The Q16.16 integer nearest to a rational, the upper one on a tie (R113). -/
def q16Nearest (r : ℚ) : Int := ⌊r * 65536 + 1 / 2⌋

/-- `voc(t)` = t / 10, exact (R111). -/
def vocExact (t : Int) : ℚ := (t : ℚ) / vocDiv

/-- `rh(t)` = t / 100, exact (R111). -/
def rhExact (t : Int) : ℚ := (t : ℚ) / rhDiv

/-- `tc(t)` and `toff(t)` = t / 200, exact (R111). -/
def tcExact (t : Int) : ℚ := (t : ℚ) / tDiv

/-- `tf(t)` = tc(t) × 9/5 + 32, exact (R111). -/
def tfExact (t : Int) : ℚ := tcExact t * 9 / 5 + 32

end Sys2Proof.Machine
end

