-- ==== Sys2Proof/Machine/Operands.lean ====
section
/-! DEFINITION. Result assembly (30_encoding.md R59, 20_memory.md R43): the byte earlier on the wire is the more
significant one, unused high bits are zero. Operand assembly (R58) is in Decode.lean. -/

namespace Sys2Proof.Machine

/-- The two bytes of a 16-bit word, in wire order: big-endian (20_memory.md R40). -/
def wireBytes (w : Half) : List Byte := [w.extractLsb' 8 8, w.extractLsb' 0 8]

/-- `zext_32` of a byte. -/
def byteRes (b : Byte) : Word32 := b.setWidth 32

/-- The wire group `{0x0000, d, c}` of one data byte (R59). -/
def group1Res (d c : Byte) : Word32 := 0#16 ++ d ++ c

/-- The wire group `{0x00, w[15:8], w[7:0], c}` of one 16-bit word (R59). -/
def group2Res (w : Half) (c : Byte) : Word32 := 0#8 ++ w ++ c

/-- `zext_32({d0, d1})`, the checked payload of a 2-byte group (R59). -/
def payload2Res (d0 d1 : Byte) : Word32 := (d0 ++ d1).setWidth 32

/-- The 32-bit two's-complement pattern `v[31:0]` of a Q16.16 integer (R59). -/
def q16Res (v : Int) : Word32 := BitVec.ofInt 32 v

/-- `zext_32(k[15:0])`: the 16-bit tick pattern, zero-extended (R59). -/
def ticksRes (k : Int) : Word32 := (BitVec.ofInt 16 k).setWidth 32

/-- The `res` of a `ChecksumError`: received byte in bits 15:8, computed byte in bits 7:0 (60_exceptions.md R140). -/
def crcPairRes (e c : Byte) : Word32 := 0#16 ++ e ++ c

end Sys2Proof.Machine
end

