-- ==== Sys2Proof/Machine/State.lean ====
section
/-! DEFINITION. The state: the block's one register (10_state.md R20, R24), the configuration of the instance, and
the two ends of the operation port as plain data. -/

namespace Sys2Proof.Machine

/-- The four status values of 60_exceptions.md R140; `Status.code` gives their 3-bit codes. -/
inductive Status where
  /-- code 0: the operation delivered its result -/
  | ok
  /-- code 1: the computed CRC differs from the received CRC byte -/
  | checksumError
  /-- code 2: the offset is outside ±`TOFF_LIMIT_X` -/
  | encodingError
  /-- code 3: the word matches no row of the opcode map -/
  | illegalOperation
deriving DecidableEq, Repr

/-- The three exceptions of R140: the statuses an operation can raise in place of OK. -/
inductive ErrorKind where
  /-- raised by `CRC.CHK`, `CRC.CHK1`, `CRC.CHK2` (R141) -/
  | checksumError
  /-- raised by `CVT.TOE` (R142) -/
  | encodingError
  /-- raised by a word that does not decode (R143) -/
  | illegalOperation
deriving DecidableEq, Repr

/-- What the block returns for one operation word (30_encoding.md R56). -/
structure Response where
  status : Status
  res : Word32
deriving DecidableEq, Repr

/-- The two moves of the host: present an operation word, or apply reset (70_reset_and_hazards.md R165). -/
inductive HostMove where
  | word (w : OpWord)
  | reset
deriving DecidableEq, Repr

/-- The machine. `crc` is the block's whole architectural state (10_state.md R20). The other three fields are the
MODEL's own (notes/assumptions/1.md, 2.md, 3.md): the instance's configuration, which the spec passes to the step
function as an argument, and the host's side of the port, which the spec passes as the operation word and the
response. -/
structure State where
  /-- the `Config` of the instance (R5, R6, R20); no step changes it (R25, R169) -/
  config : Config
  /-- the 8-bit running CRC register (R24) -/
  crc : Byte
  /-- the host's moves still to come, in order (R22, R178): the program the host holds -/
  moves : List HostMove
  /-- the responses delivered so far, in order (R178); nothing reads them back (R23, R26) -/
  responses : List Response
deriving DecidableEq, Repr

/-- The machine right after reset: `crc` = `CRC_INIT` (70_reset_and_hazards.md R166), the parameters of this
hardware (00_scope.md R5, R6), nothing owed to the host and no word presented yet (R167). -/
def State.reset : State where
  config := Config.svm40
  crc := Config.svm40.crcInit
  moves := []
  responses := []

/-- The block never stops (60_exceptions.md R151) and every word has a meaning (30_encoding.md R66), so no step
faults: this type has no constructor, and nobody raises it. Its errors are responses, not faults (R149). -/
inductive Fault where
deriving DecidableEq, Repr

/-- Why the model has no meaning for an instruction. -/
inductive Refusal where
  /-- Raised by an arm of `exec` that has no meaning yet; no arm does. Safe: it would stop the run. -/
  | notModelled (mnemonic : String)
deriving DecidableEq, Repr

end Sys2Proof.Machine
end

