-- ==== Sys2Proof/Machine/Flags.lean ====
section
/-! DEFINITION. The block retains no flag (10_state.md R23). What stands in a flag's place is the 3-bit status of a
response: its codes, and the two tests that decide it. -/

namespace Sys2Proof.Machine

/-- The 3-bit code of a status (60_exceptions.md R140); 4 to 7 are never produced. -/
def Status.code : Status → BitVec 3
  | .ok => 0
  | .checksumError => 1
  | .encodingError => 2
  | .illegalOperation => 3

/-- The status each exception is reported as (R140). -/
def ErrorKind.status : ErrorKind → Status
  | .checksumError => .checksumError
  | .encodingError => .encodingError
  | .illegalOperation => .illegalOperation

/-- All eight bits of the computed and the received CRC byte are compared (40_crc.md R94, R97, R98). -/
def crcMatches (computed expected : Byte) : Bool := computed == expected

/-- `verify(data, expected)` (40_crc.md R83). -/
def verify (cfg : Config) (data : List Byte) (expected : Byte) : Bool := crcMatches (crc8 cfg data) expected

/-- The range test of `CVT.TOE`, on the input value before scaling, bounds inclusive (41_convert.md R123). -/
def offsetRefused (cfg : Config) (x : Int) : Bool := decide (x > cfg.toffLimit ∨ x < -cfg.toffLimit)

end Sys2Proof.Machine
end

