-- ==== Sys2Proof/Machine/Ops.lean ====
section
/-! DEFINITION. The named operations every meaning is built from (00_scope.md R9): the `crc` register, the response,
raising an exception, and the host's moves. There is no memory and no other register (10_state.md R21 to R29). -/

namespace Sys2Proof.Machine

/-- Reads `crc`. -/
abbrev readCrc (s : State) : Byte := s.crc

/-- `crc <- v` (R9). -/
def writeCrc (v : Byte) (s : State) : State := { s with crc := v }

/-- `crc <- CRC_INIT`: starts an independent computation (R12 "Seed"). -/
def seed (s : State) : State := writeCrc s.config.crcInit s

/-- The port delivers a response to the host (10_state.md R26). -/
def deliver (r : Response) (s : State) : State := { s with responses := s.responses ++ [r] }

/-- `respond(status, res)`: completes the operation (R9). -/
def respond (st : Status) (res : Word32) (s : State) : Host.Outcome State Fault Refusal := .next (deliver ⟨st, res⟩ s)

/-- Taking an exception, `raise <Exception>(res)` (R9, 60_exceptions.md R149): the response of the failing operation
carries the exception's status and `res`; state written before it is kept; nothing is saved, no mode changes and
control goes nowhere. There is no return from it: the next word is accepted as after OK (R151). -/
def raise (e : ErrorKind) (res : Word32) (s : State) : Host.Outcome State Fault Refusal := respond e.status res s

/-- A word that does not decode (60_exceptions.md R143): status 3, `res` = 0, no state changes. -/
def raiseIllegal (s : State) : Host.Outcome State Fault Refusal := raise .illegalOperation 0 s

/-- The host's next move and the machine with that move made; none when the host presents nothing. -/
def takeMove (s : State) : Option (HostMove × State) :=
  match s.moves with
  | [] => none
  | m :: rest => some (m, { s with moves := rest })

/-- The reset event (70_reset_and_hazards.md R165, R166, R169): `crc` ← `CRC_INIT`, no response, and the
configuration is kept. -/
def applyReset (s : State) : State := seed s

/-- When the host presents no word the block is idle and `crc` keeps its value (60_exceptions.md R158). -/
def idle (s : State) : State := s

/-- The host presents `w` as its next move. -/
def present (w : OpWord) (s : State) : State := { s with moves := .word w :: s.moves }

end Sys2Proof.Machine
end

