-- ==== Sys2Proof/Machine/Convert.lean ====
section
/-! DEFINITION. The conversion family (41_convert.md section 3), one meaning per operation. None reads or writes
`crc` (10_state.md R27). -/

namespace Sys2Proof.Machine

/-- `CVT.VOC t` (R119). -/
def execCvtVoc (t : Int) (s : State) : Host.Outcome State Fault Refusal := respond .ok (q16Res (vocValue t)) s

/-- `CVT.RH t` (R120). -/
def execCvtRh (t : Int) (s : State) : Host.Outcome State Fault Refusal := respond .ok (q16Res (rhValue t)) s

/-- `CVT.TC t` (R121). -/
def execCvtTc (t : Int) (s : State) : Host.Outcome State Fault Refusal := respond .ok (q16Res (tcValue t)) s

/-- `CVT.TF t` (R122). -/
def execCvtTf (t : Int) (s : State) : Host.Outcome State Fault Refusal := respond .ok (q16Res (tfValue t)) s

/-- `CVT.TOE X` (R123): the range test comes first, on the input value. -/
def execCvtToe (x : Int) (s : State) : Host.Outcome State Fault Refusal :=
  if offsetRefused s.config x then raise .encodingError 0 s else respond .ok (ticksRes (toeTicks x)) s

end Sys2Proof.Machine
end

