-- ==== Sys2Proof/Machine/Crc.lean ====
section
/-! DEFINITION. The CRC family (40_crc.md section 3), one meaning per operation. -/

namespace Sys2Proof.Machine

/-- `CRC.SEED` (R91). -/
def execCrcSeed (s : State) : Host.Outcome State Fault Refusal := respond .ok 0 (seed s)

/-- `CRC.UPD d` (R92). -/
def execCrcUpd (d : Byte) (s : State) : Host.Outcome State Fault Refusal :=
  let n := crc8Byte s.config.crcPoly (readCrc s) d
  respond .ok (byteRes n) (writeCrc n s)

/-- `CRC.GET` (R93): the read re-seeds. -/
def execCrcGet (s : State) : Host.Outcome State Fault Refusal :=
  let c := readCrc s
  respond .ok (byteRes c) (seed s)

/-- `CRC.CHK e` (R94): `crc` is re-seeded on match and on mismatch alike. -/
def execCrcChk (e : Byte) (s : State) : Host.Outcome State Fault Refusal :=
  let c := readCrc s
  let s' := seed s
  if crcMatches c e then respond .ok 0 s' else raise .checksumError (crcPairRes e c) s'

/-- `CRC.GEN1 d` (R95). -/
def execCrcGen1 (d : Byte) (s : State) : Host.Outcome State Fault Refusal :=
  respond .ok (group1Res d (crc8 s.config [d])) s

/-- `CRC.GEN2 w` (R96). -/
def execCrcGen2 (w : Half) (s : State) : Host.Outcome State Fault Refusal :=
  respond .ok (group2Res w (crc8 s.config (wireBytes w))) s

/-- `CRC.CHK1 d, e` (R97). -/
def execCrcChk1 (d e : Byte) (s : State) : Host.Outcome State Fault Refusal :=
  if verify s.config [d] e then respond .ok (byteRes d) s
  else raise .checksumError (crcPairRes e (crc8 s.config [d])) s

/-- `CRC.CHK2 d0, d1, e` (R98). -/
def execCrcChk2 (d0 d1 e : Byte) (s : State) : Host.Outcome State Fault Refusal :=
  if verify s.config [d0, d1] e then respond .ok (payload2Res d0 d1) s
  else raise .checksumError (crcPairRes e (crc8 s.config [d0, d1])) s

end Sys2Proof.Machine
end

