-- ==== Sys2Proof/Machine/Dispatch.lean ====
section
/-! DEFINITION. One arm per operation of 30_encoding.md R60. -/

namespace Sys2Proof.Machine

def exec (i : Instr) (s : State) : Host.Outcome State Fault Refusal :=
  match i with
  | .crcSeed => Sys2Proof.Machine.execCrcSeed s
  | .crcUpd d => Sys2Proof.Machine.execCrcUpd d s
  | .crcGet => Sys2Proof.Machine.execCrcGet s
  | .crcChk e => Sys2Proof.Machine.execCrcChk e s
  | .crcGen1 d => Sys2Proof.Machine.execCrcGen1 d s
  | .crcGen2 w => Sys2Proof.Machine.execCrcGen2 w s
  | .crcChk1 d e => Sys2Proof.Machine.execCrcChk1 d e s
  | .crcChk2 d0 d1 e => Sys2Proof.Machine.execCrcChk2 d0 d1 e s
  | .cvtVoc t => Sys2Proof.Machine.execCvtVoc t s
  | .cvtRh t => Sys2Proof.Machine.execCvtRh t s
  | .cvtTc t => Sys2Proof.Machine.execCvtTc t s
  | .cvtTf t => Sys2Proof.Machine.execCvtTf t s
  | .cvtToe x => Sys2Proof.Machine.execCvtToe x s

end Sys2Proof.Machine
end

