-- ==== Sys2Proof/Machine/Step.lean ====
section
/-! DEFINITION. One step is one move of the host (00_scope.md section 7, 70_reset_and_hazards.md R165, R178): an
operation word with its response, taken atomically (20_memory.md R45, R49), or a reset. -/

namespace Sys2Proof.Machine

/-- The step function (10_state.md R31). Decode comes first: an illegal word raises `IllegalOperation` and none of
an operation's checks run (60_exceptions.md R148). With no move from the host the block is idle (R158). -/
def step (s : State) : Host.Outcome State Fault Refusal :=
  match takeMove s with
  | none => .next (idle s)
  | some (.reset, s') => .next (applyReset s')
  | some (.word w, s') =>
    match decode w with
    | .ok i => exec i s'
    | .error _ => raiseIllegal s'

/-- The host presents the word whose table-numbered bits are `w`, so that the very next step runs it. -/
def State.withFetchWord (s : State) (nbits w : Nat) : State := present (tableWord nbits w) s

end Sys2Proof.Machine
end

