-- ==== Sys2Proof/Machine/Pseudo.lean ====
section
/-! DEFINITION. The pseudo-operations of 30_encoding.md R68: names for sequences of operations that the host
presents in order. Only the last operation of an expansion can end with a status other than OK. -/

namespace Sys2Proof.Machine

/-- The three pseudo-operations (R68). -/
inductive PseudoOp where
  /-- `CVT.TOD t` -/
  | cvtTod (t : Int)
  /-- `CRC.CALC [b0, ..., bk-1]`, any length -/
  | crcCalc (data : List Byte)
  /-- `CRC.VERIFY [b0, ..., bk-1], e`, any length -/
  | crcVerify (data : List Byte) (e : Byte)
deriving DecidableEq, Repr

/-- The expansion column of R68. -/
def PseudoOp.expand : PseudoOp → List Instr
  | .cvtTod t => [.cvtTc t]
  | .crcCalc data => [.crcSeed] ++ data.map .crcUpd ++ [.crcGet]
  | .crcVerify data e => [.crcSeed] ++ data.map .crcUpd ++ [.crcChk e]

/-- The moves of a host that presents these operations in order (10_state.md R22, 20_memory.md R49). -/
def presentAll (is : List Instr) : List HostMove := is.map fun i => .word (encode i)

end Sys2Proof.Machine
end

