-- ==== Sys2Proof/Machine/Assembler.lean ====
section
/-! DEFINITION. The assembler of 30_encoding.md R67 and R68: reading a line of text, and from a line to operation
words. What R67 leaves open of the spelling (spaces, the case of hexadecimal digits) is notes/assumptions/9.md. -/

namespace Sys2Proof.Machine

/-- A ticks operand as a line may write it (R67): a signed decimal integer, or a 16-bit pattern in hexadecimal. -/
inductive TicksText where
  | decimal (t : Int)
  | pattern (p : Nat)
deriving DecidableEq, Repr

/-- The operand of `CVT.TOE` as a line may write it (R67): a 32-bit pattern in hexadecimal, or `=v` with the
decimal number v = `mantissa` / 10^`places`. -/
inductive OffsetText where
  | pattern (p : Nat)
  | decimal (mantissa : Int) (places : Nat)
deriving DecidableEq, Repr

/-- One line (R67, R68): a mnemonic with the values of its operands, the `.WORD` directive, or no operation at all
(a line that is empty or holds only a comment, such as `; host: ...` in R70). -/
inductive AsmLine where
  | empty
  | crcSeed
  | crcUpd (d : Nat)
  | crcGet
  | crcChk (e : Nat)
  | crcGen1 (d : Nat)
  | crcGen2 (w : Nat)
  | crcChk1 (d e : Nat)
  | crcChk2 (d0 d1 e : Nat)
  | cvtVoc (t : TicksText)
  | cvtRh (t : TicksText)
  | cvtTc (t : TicksText)
  | cvtTf (t : TicksText)
  | cvtToe (x : OffsetText)
  | cvtTod (t : TicksText)
  | crcCalc (data : List Nat)
  | crcVerify (data : List Nat) (e : Nat)
  | word (w : Nat)
deriving DecidableEq, Repr

/-- The line is the `.WORD` directive, the only one that can write an illegal word (R67). -/
def AsmLine.isWord : AsmLine → Bool
  | .word _ => true
  | _ => false

/-- A byte operand; none is the assembly error of a value that does not fit. -/
def asmByte (n : Nat) : Option Byte := if n < 256 then some (BitVec.ofNat 8 n) else none

/-- A 16-bit word operand. -/
def asmHalf (n : Nat) : Option Half := if n < 65536 then some (BitVec.ofNat 16 n) else none

/-- A ticks operand (R67). -/
def asmTicks : TicksText → Option Int
  | .decimal t => if ticksInRange t then some t else none
  | .pattern p => (asmHalf p).map BitVec.toInt

/-- The operand of `CVT.TOE`: `=v` assembles to X = v × 65536, which must be an integer in range (R67). -/
def asmOffset : OffsetText → Option Int
  | .pattern p => if p < 2 ^ 32 then some (BitVec.ofNat 32 p).toInt else none
  | .decimal m k =>
    let x := m * 65536 / 10 ^ k
    if m * 65536 % 10 ^ k = 0 ∧ offsetInRange x then some x else none

/-- The operations a line stands for, the pseudo-operations expanded (R68); none is an assembly error, and
`.WORD` stands for no operation. -/
def AsmLine.operations : AsmLine → Option (List Instr)
  | .empty => some []
  | .crcSeed => some [.crcSeed]
  | .crcUpd d => (asmByte d).map fun d => [.crcUpd d]
  | .crcGet => some [.crcGet]
  | .crcChk e => (asmByte e).map fun e => [.crcChk e]
  | .crcGen1 d => (asmByte d).map fun d => [.crcGen1 d]
  | .crcGen2 w => (asmHalf w).map fun w => [.crcGen2 w]
  | .crcChk1 d e => (asmByte d).bind fun d => (asmByte e).map fun e => [.crcChk1 d e]
  | .crcChk2 d0 d1 e =>
    (asmByte d0).bind fun d0 => (asmByte d1).bind fun d1 => (asmByte e).map fun e => [.crcChk2 d0 d1 e]
  | .cvtVoc t => (asmTicks t).map fun t => [.cvtVoc t]
  | .cvtRh t => (asmTicks t).map fun t => [.cvtRh t]
  | .cvtTc t => (asmTicks t).map fun t => [.cvtTc t]
  | .cvtTf t => (asmTicks t).map fun t => [.cvtTf t]
  | .cvtToe x => (asmOffset x).map fun x => [.cvtToe x]
  | .cvtTod t => (asmTicks t).map fun t => (PseudoOp.cvtTod t).expand
  | .crcCalc data => (data.mapM asmByte).map fun data => (PseudoOp.crcCalc data).expand
  | .crcVerify data e =>
    (data.mapM asmByte).bind fun data => (asmByte e).map fun e => (PseudoOp.crcVerify data e).expand
  | .word _ => none

/-- The operation words a line assembles to (R67); none is an assembly error. -/
def assemble : AsmLine → Option (List OpWord)
  | .word w => if w < 2 ^ 40 then some [BitVec.ofNat 40 w] else none
  | line => line.operations.map fun is => is.map encode

/-- The value of a hexadecimal digit. -/
def hexDigit (c : Char) : Option Nat :=
  let n := c.toNat
  if 48 ≤ n ∧ n ≤ 57 then some (n - 48)
  else if 65 ≤ n ∧ n ≤ 70 then some (n - 55)
  else if 97 ≤ n ∧ n ≤ 102 then some (n - 87)
  else none

/-- The value of a decimal digit. -/
def decDigit (c : Char) : Option Nat := (hexDigit c).bind fun d => if d < 10 then some d else none

/-- A numeral in base `base`: one or more digits. -/
def readDigits (base : Nat) (digit : Char → Option Nat) (cs : List Char) : Option Nat :=
  if cs.isEmpty then none else (cs.mapM digit).map fun ds => ds.foldl (fun n d => base * n + d) 0

/-- A hexadecimal numeral, written with `0x` (R67). -/
def readHex : List Char → Option Nat
  | '0' :: 'x' :: ds => readDigits 16 hexDigit ds
  | _ => none

/-- A decimal number as mantissa and number of places, with an optional `-` and an optional fraction (R67). -/
def readDecimal (cs : List Char) : Option (Int × Nat) :=
  let negative := cs.head? == some '-'
  let body := if negative then cs.tail else cs
  let whole := body.takeWhile (· != '.')
  let fraction := (body.dropWhile (· != '.')).drop 1
  if body.contains '.' && fraction.isEmpty || whole.isEmpty then none
  else (readDigits 10 decDigit (whole ++ fraction)).map fun m =>
    (if negative then -(m : Int) else (m : Int), fraction.length)

/-- A ticks operand: `0x` and a 16-bit pattern, or a signed decimal integer (R67). -/
def readTicks (cs : List Char) : Option TicksText :=
  match readHex cs with
  | some p => some (.pattern p)
  | none => (readDecimal cs).bind fun d => if d.2 = 0 then some (.decimal d.1) else none

/-- The operand of `CVT.TOE`: a 32-bit pattern, or a decimal number with `=` in front (R67). -/
def readOffset : List Char → Option OffsetText
  | '=' :: cs => (readDecimal cs).map fun d => .decimal d.1 d.2
  | cs => (readHex cs).map .pattern

/-- Without the spaces at both ends. -/
def trim (cs : List Char) : List Char := ((cs.dropWhile (· == ' ')).reverse.dropWhile (· == ' ')).reverse

/-- The operands between commas, trimmed; a line with none has none (R67). -/
def splitOperands (cs : List Char) : List (List Char) :=
  if (trim cs).isEmpty then []
  else (cs.foldr (fun c acc => match acc with
    | [] => [[c]]
    | first :: rest => if c = ',' then [] :: first :: rest else (c :: first) :: rest) [[]]).map trim

/-- A bracketed list of bytes and what follows the bracket (R68). -/
def readByteList : List Char → Option (List Nat × List Char)
  | '[' :: cs =>
    if cs.contains ']' then
      ((splitOperands (cs.takeWhile (· != ']'))).mapM readHex).map fun ds => (ds, trim ((cs.dropWhile (· != ']')).drop 1))
    else none
  | _ => none

/-- `.WORD` takes `0x` and ten hexadecimal digits (R67). -/
def readWord (cs : List Char) : Option Nat := if cs.length = 12 then readHex cs else none

/-- A line whose operation takes exactly one operand. -/
def oneOperand {α : Type} (read : List Char → Option α) (make : α → AsmLine) (ops : List (List Char)) : Option AsmLine :=
  match ops with
  | [a] => (read a).map make
  | _ => none

/-- The line a mnemonic in capitals and its operands make (R67, R68); none is an assembly error. -/
def readOperation (mnemonic text : List Char) : Option AsmLine :=
  let ops := splitOperands text
  if mnemonic = [] then some .empty
  else if mnemonic = "CRC.SEED".toList then (if ops.isEmpty then some .crcSeed else none)
  else if mnemonic = "CRC.UPD".toList then oneOperand readHex .crcUpd ops
  else if mnemonic = "CRC.GET".toList then (if ops.isEmpty then some .crcGet else none)
  else if mnemonic = "CRC.CHK".toList then oneOperand readHex .crcChk ops
  else if mnemonic = "CRC.GEN1".toList then oneOperand readHex .crcGen1 ops
  else if mnemonic = "CRC.GEN2".toList then oneOperand readHex .crcGen2 ops
  else if mnemonic = "CRC.CHK1".toList then
    match ops.mapM readHex with
    | some [d, e] => some (.crcChk1 d e)
    | _ => none
  else if mnemonic = "CRC.CHK2".toList then
    match ops.mapM readHex with
    | some [d0, d1, e] => some (.crcChk2 d0 d1 e)
    | _ => none
  else if mnemonic = "CVT.VOC".toList then oneOperand readTicks .cvtVoc ops
  else if mnemonic = "CVT.RH".toList then oneOperand readTicks .cvtRh ops
  else if mnemonic = "CVT.TC".toList then oneOperand readTicks .cvtTc ops
  else if mnemonic = "CVT.TF".toList then oneOperand readTicks .cvtTf ops
  else if mnemonic = "CVT.TOE".toList then oneOperand readOffset .cvtToe ops
  else if mnemonic = "CVT.TOD".toList then oneOperand readTicks .cvtTod ops
  else if mnemonic = "CRC.CALC".toList then
    match readByteList (trim text) with
    | some (ds, []) => some (.crcCalc ds)
    | _ => none
  else if mnemonic = "CRC.VERIFY".toList then
    match readByteList (trim text) with
    | some (ds, ',' :: e) => (readHex (trim e)).map (.crcVerify ds)
    | _ => none
  else if mnemonic = ".WORD".toList then oneOperand readWord .word ops
  else none

/-- Reads one line of text: a comment begins at `;`, the mnemonic ends at the first space (R67). -/
def readLine (cs : List Char) : Option AsmLine :=
  let code := trim (cs.takeWhile (· != ';'))
  readOperation (code.takeWhile (· != ' ')) (code.dropWhile (· != ' '))

/-- One line of text to operation words (R67); none is an assembly error. -/
def assembleText (line : String) : Option (List OpWord) := (readLine line.toList).bind assemble

end Sys2Proof.Machine
end

