-- ==== Sys2Proof/Safety.lean ====
section
/-! DEFINITION. What claims speak of: runs of the machine (70_reset_and_hazards.md R178), responses that hold no
data on an error (60_exceptions.md R145), illegal words, and the streaming group in progress (10_state.md R24). -/

namespace Sys2Proof.Machine

/-- `k` steps of the machine, stopping at a fault or a refusal. -/
def run (k : Nat) (s : State) : Host.Outcome State Fault Refusal := core.run k s

/-- From `s`, `k` steps end in the state `t`, with no fault and no refusal on the way. -/
abbrev RunsTo (k : Nat) (s t : State) : Prop := run k s = .next t

/-- Every run of any length from `s` goes on: the block never stops (R151). -/
def Safe (s : State) : Prop := ∀ k, ∃ t, RunsTo k s t

/-- The response may be used as data: its status is OK (70_reset_and_hazards.md R175). -/
def Response.usable (r : Response) : Bool := r.status == .ok

/-- The responses of the groups of one frame may be used only if every one may (70_reset_and_hazards.md R173). -/
def frameUsable (frame : List Response) : Bool := frame.all Response.usable

/-- A wire group of a frame: its one or two data bytes in wire order, then its CRC byte (20_memory.md R41). -/
inductive WireGroup where
  | one (d crc : Byte)
  | two (d0 d1 crc : Byte)
deriving DecidableEq, Repr

/-- The data bytes of a wire group, first on the wire first. -/
def WireGroup.data : WireGroup → List Byte
  | .one d _ => [d]
  | .two d0 d1 _ => [d0, d1]

/-- The CRC byte of a wire group, as received. -/
def WireGroup.crcByte : WireGroup → Byte
  | .one _ crc => crc
  | .two _ _ crc => crc

/-- The one-shot operation that verifies a wire group (40_crc.md R97, R98). -/
def WireGroup.check : WireGroup → Instr
  | .one d crc => .crcChk1 d crc
  | .two d0 d1 crc => .crcChk2 d0 d1 crc

/-- The `res` column of R140 for the three errors: two different CRC bytes under sixteen zero bits, or zero. -/
def Response.errorShape (r : Response) : Bool :=
  match r.status with
  | .ok => true
  | .checksumError => r.res.extractLsb' 16 16 == (0 : Half) && r.res.extractLsb' 8 8 != (r.res.extractLsb' 0 8 : Byte)
  | .encodingError => r.res == 0
  | .illegalOperation => r.res == 0

/-- Every response delivered so far has the shape R140 and R145 give it. -/
def State.ResponsesShaped (s : State) : Prop := ∀ r ∈ s.responses, r.errorShape = true

/-- The word is illegal: it matches no row and the decoder refuses it (30_encoding.md R61). -/
abbrev Illegal (w : OpWord) : Prop := isLegal w = false ∧ ∃ e, decode w = .error e

/-- The bytes of the streaming group in progress after one operation, when `g` were its bytes before (R24):
`CRC.SEED`, `CRC.GET` and `CRC.CHK` start a new group, `CRC.UPD` adds a byte, every other operation leaves it. -/
def groupAfterInstr (g : List Byte) : Instr → List Byte
  | .crcSeed => []
  | .crcUpd d => g ++ [d]
  | .crcGet => []
  | .crcChk _ => []
  | .crcGen1 _ => g
  | .crcGen2 _ => g
  | .crcChk1 _ _ => g
  | .crcChk2 _ _ _ => g
  | .cvtVoc _ => g
  | .cvtRh _ => g
  | .cvtTc _ => g
  | .cvtTf _ => g
  | .cvtToe _ => g

/-- The group in progress after one move of the host: reset starts a new group, an illegal word leaves it (R143). -/
def groupAfterMove (g : List Byte) : HostMove → List Byte
  | .reset => []
  | .word w =>
    match decode w with
    | .ok i => groupAfterInstr g i
    | .error _ => g

/-- The group in progress after a list of moves. -/
def groupAfter (g : List Byte) (ms : List HostMove) : List Byte := ms.foldl groupAfterMove g

/-- A move that starts, extends or ends a streaming group: a reset, or the word of a streaming operation. -/
def HostMove.touchesGroup : HostMove → Bool
  | .reset => true
  | .word w =>
    match decode w with
    | .ok i => i.streaming
    | .error _ => false

/-- The moves that are operation words: each has exactly one response (30_encoding.md R56). -/
def wordMoves (ms : List HostMove) : List HostMove := ms.filter fun m => m != .reset

end Sys2Proof.Machine
end

