-- ==== Sys2Proof/Certificates/Slice0/Obligations.lean ====
section
/-! DEFINITION. The statements for the provers. A docstring names the rule of spec/ a statement formalises; where the
rule is marked as the spec's own decision D<n>, or as derived, the docstring says so. -/

open Sys2Proof Sys2Proof.Machine

/-! ## Encoding -/

/-- Every operation with operands in range is read back from its word (30_encoding.md R57, R58, R60, R61). -/
def Obligations.DecodeOfEncode : Prop :=
  ∀ i : Instr, i.wellFormed = true → decode (encode i) = .ok i

/-- A word that decodes is the encoding of the operation it decodes to: no bit of a legal word is dropped, and every
operand read from a word is in range (30_encoding.md R58, R61, R63). -/
def Obligations.EncodeOfDecode : Prop :=
  ∀ (w : OpWord) (i : Instr), decode w = .ok i → i.wellFormed = true ∧ encode i = w

/-- The columns of R60's table, and its last sentence: no word matches two rows. -/
def Obligations.OpcodeMapRowsAreDisjoint : Prop :=
  opcodeMap.map (fun r => (r.mnemonic, r.matchBits, r.mask)) =
    [("CRC.SEED", 0x1000000000, 0xFFFFFFFFFF), ("CRC.UPD", 0x1100000000, 0xFFFFFFFF00),
     ("CRC.GET", 0x1200000000, 0xFFFFFFFFFF), ("CRC.CHK", 0x1300000000, 0xFFFFFFFF00),
     ("CRC.GEN1", 0x1800000000, 0xFFFFFFFF00), ("CRC.GEN2", 0x1900000000, 0xFFFFFF0000),
     ("CRC.CHK1", 0x1A00000000, 0xFFFFFF0000), ("CRC.CHK2", 0x1B00000000, 0xFFFF000000),
     ("CVT.VOC", 0x2000000000, 0xFFFFFF0000), ("CVT.RH", 0x2100000000, 0xFFFFFF0000),
     ("CVT.TC", 0x2200000000, 0xFFFFFF0000), ("CVT.TF", 0x2300000000, 0xFFFFFF0000),
     ("CVT.TOE", 0x2800000000, 0xFF00000000)] ∧
  opcodeMap.Pairwise fun a b => ∀ w : OpWord, ¬ (w &&& a.mask = a.matchBits ∧ w &&& b.mask = b.matchBits)

/-- 30_encoding.md R62 (the spec's decision D5): the reserved opcodes, their number, and that a word with one is
illegal whatever its `arg`. -/
def Obligations.ReservedOpcodesAreIllegal : Prop :=
  (∀ op : Byte, opcodeDefined op = false ↔
    (op.toNat ≤ 0x0F ∨ (0x14 ≤ op.toNat ∧ op.toNat ≤ 0x17) ∨ (0x1C ≤ op.toNat ∧ op.toNat ≤ 0x1F) ∨
      (0x24 ≤ op.toNat ∧ op.toNat ≤ 0x27) ∨ 0x29 ≤ op.toNat)) ∧
  ((List.range 256).filter fun n => !opcodeDefined (BitVec.ofNat 8 n)).length = 243 ∧
  ∀ (op : Byte) (arg : Word32), opcodeDefined op = false → Illegal (op ++ arg)

/-- 30_encoding.md R63 (the spec's decisions D5, D32): in each format, a word with a one among the `arg` bits the
format does not name is illegal; so are the rule's `CRC.UPD` with `arg` = 0x100 and sign-extended ticks. -/
def Obligations.ReservedArgBitsAreIllegal : Prop :=
  (∀ (op : Byte) (arg : Word32), (op = 0x10 ∨ op = 0x12) → arg ≠ 0 → Illegal (op ++ arg)) ∧
  (∀ (op : Byte) (arg : Word32), (op = 0x11 ∨ op = 0x13 ∨ op = 0x18) → arg >>> 8 ≠ 0 → Illegal (op ++ arg)) ∧
  (∀ (op : Byte) (arg : Word32), (op = 0x19 ∨ op = 0x1A ∨ op = 0x20 ∨ op = 0x21 ∨ op = 0x22 ∨ op = 0x23) →
    arg >>> 16 ≠ 0 → Illegal (op ++ arg)) ∧
  (∀ arg : Word32, arg >>> 24 ≠ 0 → Illegal (0x1B#8 ++ arg)) ∧
  Illegal 0x1100000100 ∧
  (∀ (op : Byte) (t : Int), (op = 0x20 ∨ op = 0x21 ∨ op = 0x22 ∨ op = 0x23) → -32768 ≤ t → t < 0 →
    Illegal (op ++ BitVec.ofInt 32 t))

/-- 30_encoding.md R66, which the spec derives from R60 to R63: every word has exactly one meaning, and the number of
legal words. -/
def Obligations.LegalWordCount : Prop :=
  (∀ w : OpWord, (isLegal w = true ∧ ∃ i, decode w = .ok i) ∨ Illegal w) ∧
  Set.ncard {w : OpWord | ∃ i, decode w = .ok i} = 2 + 3 * 2 ^ 8 + 5 * 2 ^ 16 + 2 ^ 16 + 2 ^ 24 + 2 ^ 32 ∧
  2 + 3 * 2 ^ 8 + 5 * 2 ^ 16 + 2 ^ 16 + 2 ^ 24 + 2 ^ 32 = 4312138498

/-- 30_encoding.md R65, which the spec derives from R62. -/
def Obligations.AllZerosAndAllOnesAreIllegal : Prop :=
  Illegal 0x0000000000 ∧ Illegal 0xFFFFFFFFFF

/-- Words printed in spec/ decode to the operations printed beside them (30_encoding.md section 5,
95_test_vectors.md): one or more of each format. -/
def Obligations.PrintedWordsDecode : Prop :=
  decode 0x1000000000 = .ok .crcSeed ∧ decode 0x11000000BE = .ok (.crcUpd 0xBE) ∧
  decode 0x190000BEEF = .ok (.crcGen2 0xBEEF) ∧ decode 0x1A000000AC = .ok (.crcChk1 0x00 0xAC) ∧
  decode 0x1B00BEEF92 = .ok (.crcChk2 0xBE 0xEF 0x92) ∧ decode 0x220000FF38 = .ok (.cvtTc (-200)) ∧
  decode 0x28FFE20000 = .ok (.cvtToe (-1966080))

/-! ## The step -/

/-- A step whose next move is a legal word takes that move and runs the operation the word decodes to
(00_scope.md section 7; 30_encoding.md R61). The list of moves is the model's own (notes/assumptions/1.md). -/
def Obligations.StepRunsDecodedWord : Prop :=
  ∀ (s : State) (w : OpWord) (rest : List HostMove) (i : Instr),
    s.moves = .word w :: rest → decode w = .ok i → step s = exec i { s with moves := rest }

/-- 60_exceptions.md R143 (the spec's decision D5): an illegal word is answered with status 3 and `res` = 0 and
changes no state; `crc` keeps its value. -/
def Obligations.IllegalWordChangesNothing : Prop :=
  Status.illegalOperation.code = 3 ∧
  ∀ (s : State) (w : OpWord) (rest : List HostMove) (e : DecodeError),
    s.moves = .word w :: rest → decode w = .error e →
      step s = .next { s with moves := rest, responses := s.responses ++ [⟨.illegalOperation, 0⟩] }

/-- 60_exceptions.md R140 (the spec's decision D22): the four codes, the statuses being exactly the codes 0 to 3, one
each; which operation raises which error, and exactly when; and what `res` holds on each. -/
def Obligations.StatusesAndTheirCauses : Prop :=
  (Status.ok.code = 0 ∧ Status.checksumError.code = 1 ∧ Status.encodingError.code = 2 ∧
    Status.illegalOperation.code = 3) ∧
  (∀ c : BitVec 3, (∃ st : Status, st.code = c) ↔ c.toNat ≤ 3) ∧
  (∀ a b : Status, a.code = b.code → a = b) ∧
  ∀ (s : State) (w : OpWord) (rest : List HostMove), s.moves = .word w :: rest →
    ∃ (t : State) (r : Response), step s = .next t ∧ t.responses = s.responses ++ [r] ∧
      (r.status = .illegalOperation ↔ isLegal w = false) ∧
      (r.status = .encodingError ↔
        ∃ x, decode w = .ok (.cvtToe x) ∧ (x > s.config.toffLimitX.val ∨ x < -(s.config.toffLimitX.val : Int))) ∧
      (r.status = .checksumError ↔
        (∃ e, decode w = .ok (.crcChk e) ∧ s.crc ≠ e) ∨
        (∃ d e, decode w = .ok (.crcChk1 d e) ∧ crc8 s.config [d] ≠ e) ∨
        (∃ d0 d1 e, decode w = .ok (.crcChk2 d0 d1 e) ∧ crc8 s.config [d0, d1] ≠ e)) ∧
      (r.status = .illegalOperation → r.res = 0) ∧ (r.status = .encodingError → r.res = 0) ∧
      (∀ e, decode w = .ok (.crcChk e) → s.crc ≠ e → r.res = (0#16 ++ e ++ s.crc : BitVec 32)) ∧
      (∀ d e, decode w = .ok (.crcChk1 d e) → crc8 s.config [d] ≠ e →
        r.res = (0#16 ++ e ++ crc8 s.config [d] : BitVec 32)) ∧
      (∀ d0 d1 e, decode w = .ok (.crcChk2 d0 d1 e) → crc8 s.config [d0, d1] ≠ e →
        r.res = (0#16 ++ e ++ crc8 s.config [d0, d1] : BitVec 32))

/-- From every state a step answers a next state, which has the same configuration (R25) and one move less. For an
operation word the spec says so (10_state.md R31, 30_encoding.md R66), and that it adds exactly one response (R56).
That a reset adds none is 70_reset_and_hazards.md R165; that it keeps the later moves and the earlier responses is
the model's inference (notes/assumptions/5.md). That a step with no move is a step, which changes nothing, is the
model's reading of 60_exceptions.md R158 (notes/assumptions/4.md). -/
def Obligations.EveryStepCompletes : Prop :=
  ∀ s : State, ∃ t : State, step s = .next t ∧ t.config = s.config ∧ t.moves = s.moves.tail ∧
    match s.moves with
    | .word _ :: _ => ∃ r, t.responses = s.responses ++ [r]
    | .reset :: _ => t.responses = s.responses
    | [] => t.responses = s.responses

/-- The invariant of the delivered responses that every step keeps: on an error `res` is never a data value
(60_exceptions.md R145). -/
def Obligations.StepKeepsErrorResponsesFreeOfData : Prop :=
  ∀ s t : State, s.ResponsesShaped → step s = .next t → t.ResponsesShaped

/-- That invariant holds at reset. -/
def Obligations.ResetErrorResponsesFreeOfData : Prop := State.reset.ResponsesShaped

/-- The invariant of the running register that every step keeps (10_state.md R24): if `crc` holds the remainder over
the bytes `g` of the streaming group in progress, it does so after the step, for the group the move leaves. The clause
for no move rests on the model's reading of an idle step (notes/assumptions/4.md). -/
def Obligations.StepKeepsCrcOfGroupInProgress : Prop :=
  ∀ (s t : State) (g : List Byte), s.crc = crc8 s.config g → step s = .next t →
    t.crc = crc8 t.config (match s.moves with
      | [] => g
      | m :: _ => groupAfterMove g m)

/-- 10_state.md R24 (the spec's decisions D10, D11) along a whole run: after any list of moves `crc` holds the
remainder over the bytes of the streaming group in progress, whatever other words came between them. At reset the
group is empty and `crc` is 0xFF. -/
def Obligations.RunKeepsCrcOfGroupInProgress : Prop :=
  (State.reset.crc = crc8 State.reset.config [] ∧ State.reset.crc = 0xFF) ∧
  ∀ (s : State) (g : List Byte), s.crc = crc8 s.config g →
    ∃ t : State, RunsTo s.moves.length s t ∧ t.config = s.config ∧ t.crc = crc8 s.config (groupAfter g s.moves)

/-- A run (70_reset_and_hazards.md R178): after as many steps as the host has moves, all are taken, the earlier
responses still stand in order, and each operation word has added exactly one. That a reset among them keeps the later
moves and the earlier responses is the model's inference from R178 (notes/assumptions/5.md). -/
def Obligations.RunTakesEveryMove : Prop :=
  ∀ s : State, ∃ t : State, RunsTo s.moves.length s t ∧ t.moves = [] ∧ t.config = s.config ∧ s.responses <+: t.responses ∧
    t.responses.length = s.responses.length + (wordMoves s.moves).length

/-- A run of any length from any state goes on. 60_exceptions.md R151 says that the block never stops, locks up or
needs a reset after an error, and 30_encoding.md R66 that every word has a response. That no step of the model faults
or refuses is inferred from them (notes/assumptions/6.md); that the run goes on past the host's last move, by idle
steps only, is the model's reading of R158 (notes/assumptions/4.md). -/
def Obligations.BlockNeverStops : Prop := ∀ s : State, Safe s

/-- 70_reset_and_hazards.md R165, R166, R169 (the spec's decisions D9, D10, D27): the reset event writes `CRC_INIT`
to `crc`, produces no response, cannot fail, and leaves the configuration; `CRC.SEED` writes the same value. The
whole next state is given: that the host's later moves and the earlier responses stay is the model's inference from
R178 (notes/assumptions/5.md). -/
def Obligations.ResetEventSeedsCrc : Prop :=
  State.reset.crc = 0xFF ∧
  ∀ (s : State) (rest : List HostMove), s.moves = .reset :: rest →
    step s = .next { s with crc := s.config.crcInit, moves := rest } ∧
    ∃ t, exec .crcSeed s = .next t ∧ t.crc = s.config.crcInit

/-- When the host presents no word the block is idle and keeps its state (60_exceptions.md R158). That a step is then
a step that changes nothing is the model's reading (notes/assumptions/4.md). -/
def Obligations.IdleStepChangesNothing : Prop :=
  ∀ s : State, s.moves = [] → step s = .next s

/-- The machine after reset (70_reset_and_hazards.md R166, R167) with the parameters of this hardware (00_scope.md R5,
R6). That no move and no response stands there yet is the model's choice (notes/assumptions/1.md, 2.md). -/
def Obligations.ResetStateIsTheSpecs : Prop :=
  State.reset.crc = 0xFF ∧ State.reset.config.crcPoly = 0x31 ∧ State.reset.config.crcInit = 0xFF ∧
  State.reset.config.toffLimitX.val = 0x001E0000 ∧ State.reset.moves = [] ∧ State.reset.responses = []

/-! ## The CRC computation -/

/-- 40_crc.md R80 (the spec's decisions D6, D8), bit by bit: the next register is the old one shifted toward its top
bit, XOR the polynomial exactly when the top bit differs from the data bit; and the rule's two examples. -/
def Obligations.CrcBitStep : Prop :=
  (∀ (poly c : Byte) (b : Bool) (i : Nat), i < 8 →
    (crc8Bit poly c b).getLsbD i = ((decide (0 < i) && c.getLsbD (i - 1)) ^^ ((c.getLsbD 7 ^^ b) && poly.getLsbD i))) ∧
  crc8Bit 0x31 0xFF true = 0xFE ∧ crc8Bit 0x31 0xFE false = 0xCD

/-- 40_crc.md R81, R82 (the spec's decision D6): a byte enters most significant bit first, a list first byte first;
with the intermediate values R81 prints for 0xBE from 0xFF. -/
def Obligations.CrcByteAndListSteps : Prop :=
  (∀ poly c d : Byte, crc8Byte poly c d = [7, 6, 5, 4, 3, 2, 1, 0].foldl (fun r k => crc8Bit poly r (d.getLsbD k)) c) ∧
  ([1, 2, 3, 4, 5, 6, 7, 8].map fun n =>
    ([7, 6, 5, 4, 3, 2, 1, 0].take n).foldl (fun r k => crc8Bit 0x31 r ((0xBE : Byte).getLsbD k)) 0xFF) =
      [0xFE, 0xCD, 0x9A, 0x34, 0x59, 0x83, 0x06, 0x0C] ∧
  crc8Byte 0x31 0xFF 0xBE = 0x0C ∧
  (∀ poly c : Byte, crc8Bytes poly c [] = c) ∧
  (∀ (poly c b : Byte) (rest : List Byte), crc8Bytes poly c (b :: rest) = crc8Bytes poly (crc8Byte poly c b) rest)

/-- The check values of 95_test_vectors.md section 2.1, with the parameters of this hardware; the empty group's is
the spec's decision D14. -/
def Obligations.CrcCheckValues : Prop :=
  crc8 Config.svm40 [0xBE, 0xEF] = 0x92 ∧ crc8 Config.svm40 [] = 0xFF ∧
  crc8 Config.svm40 [0x31, 0x32, 0x33, 0x34, 0x35, 0x36, 0x37, 0x38, 0x39] = 0xF7

/-- The byte-wise form of 40_crc.md R85, which the spec derives from R80 and R81, for every polynomial. -/
def Obligations.CrcByteWiseForm : Prop :=
  ∀ poly c d : Byte, crc8Byte poly c d = step8 poly (c ^^^ d)

/-- The table form of 40_crc.md R86, which the spec derives, for every polynomial; the 256 entries the rule prints
for 0x31; and its two one-byte checksums. -/
def Obligations.CrcTableForm : Prop :=
  (∀ poly c d : Byte, crc8Byte poly c d = crcTable poly (c ^^^ d)) ∧
  printedTable.length = 256 ∧ (∀ i : Byte, printedTable[i.toNat]? = some (crcTable 0x31 i)) ∧
  crc8 Config.svm40 [0x00] = 0xAC ∧ crc8 Config.svm40 [0xFF] = 0x00

/-- 40_crc.md R89: a group verifies against its own checksum; a single flipped bit in the data or in the checksum
byte makes verification fail, for every group length. The data half needs bit 0 of the polynomial to be one
(93_implementation_defined.md U9), which holds for this hardware. -/
def Obligations.SingleBitErrorsAreDetected : Prop :=
  (∀ (cfg : Config) (data : List Byte), verify cfg data (crc8 cfg data) = true) ∧
  Config.svm40.crcPoly.getLsbD 0 = true ∧
  (∀ (cfg : Config) (before after : List Byte) (b : Byte) (i : Nat), cfg.crcPoly.getLsbD 0 = true → i < 8 →
    verify cfg (before ++ (b ^^^ (1#8 <<< i)) :: after) (crc8 cfg (before ++ b :: after)) = false) ∧
  (∀ (cfg : Config) (data : List Byte) (i : Nat), i < 8 → verify cfg data (crc8 cfg data ^^^ (1#8 <<< i)) = false)

/-- The zero residue of 40_crc.md R90, which the spec derives, for every polynomial and seed: over a group followed by
its checksum the register ends at zero. -/
def Obligations.CrcZeroResidue : Prop :=
  ∀ (cfg : Config) (data : List Byte), crc8 cfg (data ++ [crc8 cfg data]) = 0

/-! ## The CRC family -/

/-- 40_crc.md R91 (the spec's decision D11): `CRC.SEED`, its word, its effect; it is idempotent and changes nothing
right after reset. -/
def Obligations.CrcSeedWritesInit : Prop :=
  decode 0x1000000000 = .ok .crcSeed ∧
  (∀ s : State, exec .crcSeed s =
    .next { s with crc := s.config.crcInit, responses := s.responses ++ [⟨.ok, 0x00000000⟩] }) ∧
  (∀ s t u : State, exec .crcSeed s = .next t → exec .crcSeed t = .next u → u.crc = t.crc) ∧
  (∀ t : State, exec .crcSeed State.reset = .next t → t.crc = State.reset.crc)

/-- 40_crc.md R92: `CRC.UPD d`, its words, its effect and the rule's example. -/
def Obligations.CrcUpdFoldsByte : Prop :=
  (∀ d : Byte, decode (0x11#8 ++ 0#24 ++ d) = .ok (.crcUpd d)) ∧
  (∀ (s : State) (d : Byte), exec (.crcUpd d) s = .next { s with
      crc := crc8Byte s.config.crcPoly s.crc d,
      responses := s.responses ++ [⟨.ok, (crc8Byte s.config.crcPoly s.crc d).setWidth 32⟩] }) ∧
  crc8Byte 0x31 0xFF 0xBE = 0x0C ∧ crc8Byte 0x31 0x0C 0xEF = 0x92

/-- 40_crc.md R93 (the spec's decision D11): `CRC.GET`, its word, its effect; a second `CRC.GET` returns `CRC_INIT`,
which is 0xFF on this hardware. -/
def Obligations.CrcGetReadsAndReseeds : Prop :=
  decode 0x1200000000 = .ok .crcGet ∧
  (∀ s : State, exec .crcGet s = .next { s with
      crc := s.config.crcInit, responses := s.responses ++ [⟨.ok, s.crc.setWidth 32⟩] }) ∧
  (∀ s t u : State, exec .crcGet s = .next t → exec .crcGet t = .next u →
    u.responses = t.responses ++ [⟨.ok, s.config.crcInit.setWidth 32⟩]) ∧
  (∀ t : State, exec .crcGet State.reset = .next t → t.responses = [⟨.ok, 0x000000FF⟩])

/-- 40_crc.md R94 (the spec's decisions D11, D23): `CRC.CHK e`, its words, its effect on match and on mismatch; the
register is re-seeded in both cases. -/
def Obligations.CrcChkComparesAndReseeds : Prop :=
  (∀ e : Byte, decode (0x13#8 ++ 0#24 ++ e) = .ok (.crcChk e)) ∧
  (∀ (s : State) (e : Byte), s.crc = e → exec (.crcChk e) s = .next { s with
      crc := s.config.crcInit, responses := s.responses ++ [⟨.ok, 0x00000000⟩] }) ∧
  (∀ (s : State) (e : Byte), s.crc ≠ e → exec (.crcChk e) s = .next { s with
      crc := s.config.crcInit,
      responses := s.responses ++ [⟨.checksumError, (0#16 ++ e ++ s.crc : BitVec 32)⟩] }) ∧
  (∀ (e : Byte) (t : State), exec (.crcChk e) State.reset = .next t →
    ((∃ r ∈ t.responses, r.status = .ok) ↔ e = 0xFF)) ∧
  (0#16 ++ 0x93#8 ++ 0x92#8 : BitVec 32) = 0x00009392

/-- 40_crc.md R95 (the spec's decisions D12, D13): `CRC.GEN1 d`, its words, its effect, its corner cases and example;
`crc` is neither read nor written. -/
def Obligations.CrcGen1BuildsGroup : Prop :=
  (∀ d : Byte, decode (0x18#8 ++ 0#24 ++ d) = .ok (.crcGen1 d)) ∧
  (∀ (s : State) (d : Byte), exec (.crcGen1 d) s = .next { s with
      responses := s.responses ++ [⟨.ok, (0#16 ++ d ++ crc8 s.config [d] : BitVec 32)⟩] }) ∧
  crc8 Config.svm40 [0xFF] = 0x00 ∧ crc8 Config.svm40 [0x00] = 0xAC ∧ crc8 Config.svm40 [0x01] = 0x9D

/-- 40_crc.md R96 (the spec's decisions D12, D13): `CRC.GEN2 w`, its words, its effect with the more significant byte
first, its corner cases and example; `crc` is neither read nor written. -/
def Obligations.CrcGen2BuildsGroup : Prop :=
  (∀ w : Half, decode (0x19#8 ++ 0#16 ++ w) = .ok (.crcGen2 w)) ∧
  (∀ (s : State) (b0 b1 : Byte), exec (.crcGen2 (b0 ++ b1)) s = .next { s with
      responses := s.responses ++ [⟨.ok, (0#8 ++ b0 ++ b1 ++ crc8 s.config [b0, b1] : BitVec 32)⟩] }) ∧
  crc8 Config.svm40 [0x00, 0x00] = 0x81 ∧ crc8 Config.svm40 [0xFF, 0xFF] = 0xAC ∧
  crc8 Config.svm40 [0xE8, 0x90] = 0xF9 ∧ BitVec.ofInt 16 (-6000) = 0xE890#16 ∧
  crc8 Config.svm40 [0xBE, 0xEF] = 0x92

/-- 40_crc.md R97 (the spec's decisions D12, D13, D23): `CRC.CHK1 d, e`, its words, its effect on match and on
mismatch, its example; `crc` is neither read nor written. -/
def Obligations.CrcChk1VerifiesGroup : Prop :=
  (∀ d e : Byte, decode (0x1A#8 ++ 0#16 ++ d ++ e) = .ok (.crcChk1 d e)) ∧
  (∀ (s : State) (d e : Byte), crc8 s.config [d] = e → exec (.crcChk1 d e) s = .next { s with
      responses := s.responses ++ [⟨.ok, d.setWidth 32⟩] }) ∧
  (∀ (s : State) (d e : Byte), crc8 s.config [d] ≠ e → exec (.crcChk1 d e) s = .next { s with
      responses := s.responses ++ [⟨.checksumError, (0#16 ++ e ++ crc8 s.config [d] : BitVec 32)⟩] }) ∧
  crc8 Config.svm40 [0x01] = 0x9D

/-- 40_crc.md R98 (the spec's decisions D12, D13, D23): `CRC.CHK2 d0, d1, e`, its words, its effect on match and on
mismatch, its examples; `crc` is neither read nor written. -/
def Obligations.CrcChk2VerifiesGroup : Prop :=
  (∀ d0 d1 e : Byte, decode (0x1B#8 ++ 0#8 ++ d0 ++ d1 ++ e) = .ok (.crcChk2 d0 d1 e)) ∧
  (∀ (s : State) (d0 d1 e : Byte), crc8 s.config [d0, d1] = e → exec (.crcChk2 d0 d1 e) s = .next { s with
      responses := s.responses ++ [⟨.ok, (0#16 ++ d0 ++ d1 : BitVec 32)⟩] }) ∧
  (∀ (s : State) (d0 d1 e : Byte), crc8 s.config [d0, d1] ≠ e → exec (.crcChk2 d0 d1 e) s = .next { s with
      responses := s.responses ++ [⟨.checksumError, (0#16 ++ e ++ crc8 s.config [d0, d1] : BitVec 32)⟩] }) ∧
  crc8 Config.svm40 [0xBE, 0xEF] = 0x92 ∧ crc8 Config.svm40 [0xBF, 0xEF] = 0x66

/-! ## The conversion family -/

/-- 41_convert.md R119: `CVT.VOC t`, its words, its effect (the Q16.16 number nearest to t / 10), its corner cases and
example; it never fails and touches nothing but the response. -/
def Obligations.CvtVocGivesNearest : Prop :=
  (∀ p : Half, decode (0x20#8 ++ 0#16 ++ p) = .ok (.cvtVoc p.toInt)) ∧
  (∀ (s : State) (t : Int), -32768 ≤ t → t ≤ 32767 →
    exec (.cvtVoc t) s = .next { s with
      responses := s.responses ++ [⟨.ok, BitVec.ofInt 32 (mulshift t 0x199999999A)⟩] } ∧
    mulshift t 0x199999999A = q16Nearest ((t : ℚ) / 10)) ∧
  [0, -32768, 32767, 1, -1, 1000].map (fun t => BitVec.ofInt 32 (mulshift t 0x199999999A)) =
    [0x00000000#32, 0xF3333333#32, 0x0CCCB333#32, 0x0000199A#32, 0xFFFFE666#32, 0x00640000#32]

/-- 41_convert.md R120: `CVT.RH t`, its words, its effect (the Q16.16 number nearest to t / 100), its corner cases and
example; no value is clamped. -/
def Obligations.CvtRhGivesNearest : Prop :=
  (∀ p : Half, decode (0x21#8 ++ 0#16 ++ p) = .ok (.cvtRh p.toInt)) ∧
  (∀ (s : State) (t : Int), -32768 ≤ t → t ≤ 32767 →
    exec (.cvtRh t) s = .next { s with
      responses := s.responses ++ [⟨.ok, BitVec.ofInt 32 (mulshift t 0x28F5C28F6)⟩] } ∧
    mulshift t 0x28F5C28F6 = q16Nearest ((t : ℚ) / 100)) ∧
  [0, -32768, 32767, 1, -1, 4500].map (fun t => BitVec.ofInt 32 (mulshift t 0x28F5C28F6)) =
    [0x00000000#32, 0xFEB851EC#32, 0x0147AB85#32, 0x0000028F#32, 0xFFFFFD71#32, 0x002D0000#32]

/-- 41_convert.md R121 (the spec's decision D18): `CVT.TC t`, its words, its effect (the Q16.16 number nearest to
t / 200), its corner cases and example. -/
def Obligations.CvtTcGivesNearest : Prop :=
  (∀ p : Half, decode (0x22#8 ++ 0#16 ++ p) = .ok (.cvtTc p.toInt)) ∧
  (∀ (s : State) (t : Int), -32768 ≤ t → t ≤ 32767 →
    exec (.cvtTc t) s = .next { s with
      responses := s.responses ++ [⟨.ok, BitVec.ofInt 32 (mulshift t 0x147AE147B)⟩] } ∧
    mulshift t 0x147AE147B = q16Nearest ((t : ℚ) / 200)) ∧
  [0, -32768, 32767, 1, -1, -200, 2500].map (fun t => BitVec.ofInt 32 (mulshift t 0x147AE147B)) =
    [0x00000000#32, 0xFF5C28F6#32, 0x00A3D5C3#32, 0x00000148#32, 0xFFFFFEB8#32, 0xFFFF0000#32, 0x000C8000#32]

/-- 41_convert.md R122 (the spec's decision D17): `CVT.TF t`, its words, its effect (the Q16.16 number nearest to
9t / 1000 + 32, with one rounding), its corner cases and example. -/
def Obligations.CvtTfGivesNearest : Prop :=
  (∀ p : Half, decode (0x23#8 ++ 0#16 ++ p) = .ok (.cvtTf p.toInt)) ∧
  (∀ (s : State) (t : Int), -32768 ≤ t → t ≤ 32767 →
    exec (.cvtTf t) s = .next { s with
      responses := s.responses ++ [⟨.ok, BitVec.ofInt 32 (mulshift t 0x24DD2F1AA + 0x00200000)⟩] } ∧
    mulshift t 0x24DD2F1AA + 0x00200000 = q16Nearest (9 * (t : ℚ) / 1000 + 32)) ∧
  [0, -32768, 32767, 1, -1, 2500].map (fun t => BitVec.ofInt 32 (mulshift t 0x24DD2F1AA + 0x00200000)) =
    [0x00200000#32, 0xFEF91687#32, 0x0146E72B#32, 0x0020024E#32, 0x001FFDB2#32, 0x00368000#32]

/-- 41_convert.md R123 (the spec's decisions D19, D20, D21): `CVT.TOE X`, its words; `EncodingError` exactly outside
±`TOFF_LIMIT_X`, tested before rounding; inside, round(X × 200 / 65536) with ties to even, zero-extended; the width and
range of the ticks, the corner cases and the example. -/
def Obligations.CvtToeEncodesOffset : Prop :=
  (∀ p : Word32, decode (0x28#8 ++ p) = .ok (.cvtToe p.toInt)) ∧
  (∀ (s : State) (x : Int), (x > s.config.toffLimitX.val ∨ x < -(s.config.toffLimitX.val : Int)) →
    exec (.cvtToe x) s = .next { s with responses := s.responses ++ [⟨.encodingError, 0x00000000⟩] }) ∧
  (∀ (s : State) (x : Int), -(s.config.toffLimitX.val : Int) ≤ x → x ≤ s.config.toffLimitX.val →
    exec (.cvtToe x) s = .next { s with
      responses := s.responses ++ [⟨.ok, (BitVec.ofInt 16 (rneDiv65536 (x * 200))).setWidth 32⟩] } ∧
    -32768 ≤ rneDiv65536 (x * 200) ∧ rneDiv65536 (x * 200) ≤ 32767) ∧
  (∀ x : Int, -0x001E0000 ≤ x → x ≤ 0x001E0000 →
    -2 ^ 29 < x * 200 ∧ x * 200 < 2 ^ 29 ∧ -6000 ≤ rneDiv65536 (x * 200) ∧ rneDiv65536 (x * 200) ≤ 6000) ∧
  rneDiv65536 (0x001E0001 * 200) = 6000 ∧
  [0, 0x001E0000, -0x001E0000, 0x1000, 0x3000, 0x5000, -0x1000, 0x10000].map (fun x => rneDiv65536 (x * 200)) =
    [0, 6000, -6000, 12, 38, 62, -12, 200] ∧
  BitVec.ofInt 16 (-6000) = 0xE890#16 ∧ BitVec.ofInt 16 (-12) = 0xFFF4#16 ∧
  rneDiv65536 (0xA4 * 200) = 1 ∧ (∀ x : Int, 0 < x → x < 0xA4 → rneDiv65536 (x * 200) ≠ 1)

/-- 41_convert.md R115, which the spec derives from R113 and R114: each constant is the rounded slope, and for every
one of the 65,536 tick values the datapath is exact to nearest. -/
def Obligations.DatapathIsExactToNearest : Prop :=
  ((kVoc : ℤ) = ⌊(2 ^ 40 / 10 + 1 / 2 : ℚ)⌋ ∧ (kRh : ℤ) = ⌊(2 ^ 40 / 100 + 1 / 2 : ℚ)⌋ ∧
    (kTc : ℤ) = ⌊(2 ^ 40 / 200 + 1 / 2 : ℚ)⌋ ∧ (kTf : ℤ) = ⌊(2 ^ 40 * 9 / 1000 + 1 / 2 : ℚ)⌋) ∧
  ∀ t : Int, -32768 ≤ t → t ≤ 32767 →
    vocValue t = q16Nearest (vocExact t) ∧ rhValue t = q16Nearest (rhExact t) ∧
    tcValue t = q16Nearest (tcExact t) ∧ tfValue t = q16Nearest (tfExact t)

/-- 41_convert.md R116, which the spec derives from R114 and R115: over all ticks each map is strictly increasing and
its results run between the two values of the rule's table; no product plus rounding constant needs more than 53
bits; and the results at zero. -/
def Obligations.ConversionRanges : Prop :=
  (∀ t u : Int, t < u → vocValue t < vocValue u ∧ rhValue t < rhValue u ∧ tcValue t < tcValue u ∧
    tfValue t < tfValue u) ∧
  (∀ t : Int, -32768 ≤ t → t ≤ 32767 →
    (-214748365 ≤ vocValue t ∧ vocValue t ≤ 214741811) ∧ (-21474836 ≤ rhValue t ∧ rhValue t ≤ 21474181) ∧
    (-10737418 ≤ tcValue t ∧ tcValue t ≤ 10737091) ∧ (-17230201 ≤ tfValue t ∧ tfValue t ≤ 21423915) ∧
    (∀ k ∈ [kVoc, kRh, kTc, kTf], -2 ^ 52 ≤ t * k + 2 ^ 23 ∧ t * k + 2 ^ 23 < 2 ^ 52)) ∧
  (vocValue 0 = 0 ∧ rhValue 0 = 0 ∧ tcValue 0 = 0 ∧ tfValue 0 = 0x00200000)

/-- 41_convert.md R113 (the spec's decision D16, and a derivation): `q16_nearest` minimises the distance, the upper
integer on a tie; for the four maps no tie can occur, so every other integer is strictly farther. -/
def Obligations.NearestMinimisesDistance : Prop :=
  (∀ (r : ℚ) (v : Int), |(q16Nearest r : ℚ) - r * 65536| ≤ |(v : ℚ) - r * 65536|) ∧
  (∀ (r : ℚ) (v : Int), |(q16Nearest r : ℚ) - r * 65536| = |(v : ℚ) - r * 65536| → v ≤ q16Nearest r) ∧
  (∀ t : Int, ∀ r ∈ [vocExact t, rhExact t, tcExact t, tfExact t], ∀ v : Int, v ≠ q16Nearest r →
    |(q16Nearest r : ℚ) - r * 65536| < |(v : ℚ) - r * 65536|) ∧
  (∀ t : Int, |(q16Nearest (vocExact t) : ℚ) - vocExact t * 65536| ≤ 4 / 10 ∧
    |(q16Nearest (rhExact t) : ℚ) - rhExact t * 65536| ≤ 48 / 100 ∧
    |(q16Nearest (tcExact t) : ℚ) - tcExact t * 65536| ≤ 48 / 100 ∧
    |(q16Nearest (tfExact t) : ℚ) - tfExact t * 65536| ≤ 496 / 1000)

/-- 41_convert.md R117 (the spec's decision D19): `rne_div65536` is the nearest integer, the even one at an exact
half, and nothing else; with the rule's examples. -/
def Obligations.RoundingTiesToEven : Prop :=
  (∀ p k : Int, rneDiv65536 p = k ↔
    |(p : ℚ) / 65536 - k| < 1 / 2 ∨ (|(p : ℚ) / 65536 - k| = 1 / 2 ∧ k % 2 = 0)) ∧
  rneDiv65536 0x000C8000 = 12 ∧ rneDiv65536 0x00258000 = 38 ∧ rneDiv65536 (-0x000C8000) = -12 ∧
  rneDiv65536 0x00008020 = 1 ∧ rneDiv65536 0x00007F58 = 0

/-- 41_convert.md R118, which the spec derives from R113: the delivered Q16.16 value equals the exact rational exactly
when the ticks are a multiple of 5 (VOC), 25 (RH, °C) or 125 (°F). -/
def Obligations.ConversionExactness : Prop :=
  ∀ t : Int, -32768 ≤ t → t ≤ 32767 →
    (q16Value (BitVec.ofInt 32 (vocValue t)) = vocExact t ↔ 5 ∣ t) ∧
    (q16Value (BitVec.ofInt 32 (rhValue t)) = rhExact t ↔ 25 ∣ t) ∧
    (q16Value (BitVec.ofInt 32 (tcValue t)) = tcExact t ↔ 25 ∣ t) ∧
    (q16Value (BitVec.ofInt 32 (tfValue t)) = tfExact t ↔ 125 ∣ t)

/-- 41_convert.md R124, which the spec derives: `CVT.TOE` of the `res` of `CVT.TC t` returns `t` for -6000 ≤ t ≤ 6000
with the limit of this hardware, and in the arithmetic alone for every tick value; and `CVT.TC` of the `res` of
`CVT.TOE x` returns `x` for every offset that is exactly ticks / 200. -/
def Obligations.OffsetRoundTrip : Prop :=
  (∀ (s : State) (t : Int), s.config.toffLimitX.val = 0x001E0000 → -6000 ≤ t → t ≤ 6000 →
    ∃ (u v : State) (x : Word32), exec (.cvtTc t) s = .next u ∧ u.responses = s.responses ++ [⟨.ok, x⟩] ∧
      exec (.cvtToe x.toInt) u = .next v ∧
      v.responses = u.responses ++ [⟨.ok, (BitVec.ofInt 16 t).setWidth 32⟩]) ∧
  (∀ t : Int, -32768 ≤ t → t ≤ 32767 → rneDiv65536 (mulshift t 0x147AE147B * 200) = t) ∧
  (∀ (s : State) (x : Word32) (t : Int), s.config.toffLimitX.val = 0x001E0000 → -6000 ≤ t → t ≤ 6000 → 25 ∣ t →
    q16Value x = (t : ℚ) / 200 →
    ∃ (u v : State) (p : Half), exec (.cvtToe x.toInt) s = .next u ∧
      u.responses = s.responses ++ [⟨.ok, p.setWidth 32⟩] ∧
      exec (.cvtTc p.toInt) u = .next v ∧ v.responses = u.responses ++ [⟨.ok, x⟩])

/-! ## Effects across operations -/

/-- 10_state.md R30: a one-shot operation is a function of the configuration and its argument alone; whatever was
executed before, it gives the same response and leaves the state. -/
def Obligations.OneShotIsAFunctionOfItsArgument : Prop :=
  ∀ (i : Instr) (s u : State), i.streaming = false → s.config = u.config →
    ∃ r : Response, exec i s = .next { s with responses := s.responses ++ [r] } ∧
      exec i u = .next { u with responses := u.responses ++ [r] }

/-- The access table of 10_state.md R27, which the spec derives: what every move of the host leaves in `crc`, and that
it leaves the configuration. That a reset keeps the later moves is the model's inference (notes/assumptions/5.md). -/
def Obligations.CrcWrittenPerMove : Prop :=
  ∀ (s : State) (m : HostMove) (rest : List HostMove), s.moves = m :: rest →
    ∃ t : State, step s = .next t ∧ t.config = s.config ∧ t.moves = rest ∧
      (m = .reset → t.crc = s.config.crcInit) ∧
      (∀ w, m = .word w → ∀ i, decode w = .ok i →
        (i = .crcSeed → t.crc = s.config.crcInit) ∧
        (∀ d, i = .crcUpd d → t.crc = crc8Byte s.config.crcPoly s.crc d) ∧
        (i = .crcGet → t.crc = s.config.crcInit) ∧
        (∀ e, i = .crcChk e → t.crc = s.config.crcInit) ∧
        (i.streaming = false → t.crc = s.crc)) ∧
      (∀ w, m = .word w → isLegal w = false → t.crc = s.crc)

/-- The response is an output and nothing else (10_state.md R23, R26): with any other history of responses the step
does the same and delivers the same. -/
def Obligations.ResponsesAreNeverRead : Prop :=
  ∀ (s t : State) (history : List Response), step s = .next t →
    ∃ new : List Response, t.responses = s.responses ++ new ∧
      step { s with responses := history } = .next { t with responses := history ++ new }

/-- 30_encoding.md R68 (the spec's decision D30): what the host gets from each pseudo-operation, for a group of any
length and from any state: `CVT.TOD` is `CVT.TC`; `CRC.CALC` ends with the checksum of the group; `CRC.VERIFY` ends
with OK exactly when the group verifies; every operation before the last answers OK. -/
def Obligations.PseudoOperationsCompute : Prop :=
  (∀ t : Int, (PseudoOp.cvtTod t).expand = [.cvtTc t]) ∧
  (∀ (s : State) (data : List Byte) (rest : List HostMove),
    s.moves = presentAll (PseudoOp.crcCalc data).expand ++ rest →
    ∃ (t : State) (mid : List Response), RunsTo (data.length + 2) s t ∧ t.moves = rest ∧ t.config = s.config ∧ t.crc = s.config.crcInit ∧
      t.responses = s.responses ++ mid ++ [⟨.ok, (crc8 s.config data).setWidth 32⟩] ∧
      mid.length = data.length + 1 ∧ ∀ r ∈ mid, r.status = .ok) ∧
  (∀ (s : State) (data : List Byte) (e : Byte) (rest : List HostMove),
    s.moves = presentAll (PseudoOp.crcVerify data e).expand ++ rest →
    ∃ (t : State) (mid : List Response) (last : Response), RunsTo (data.length + 2) s t ∧ t.moves = rest ∧ t.config = s.config ∧ t.crc = s.config.crcInit ∧
      t.responses = s.responses ++ mid ++ [last] ∧
      (crc8 s.config data = e → last = ⟨.ok, 0⟩) ∧
      (crc8 s.config data ≠ e → last = ⟨.checksumError, (0#16 ++ e ++ crc8 s.config data : BitVec 32)⟩) ∧
      mid.length = data.length + 1 ∧ ∀ r ∈ mid, r.status = .ok)

/-- The last sentence of 40_crc.md R99, which the spec derives: the wire group `CRC.GEN2` builds verifies and gives
back the word, and likewise for one byte, with nothing between them changed. -/
def Obligations.GeneratedGroupsVerify : Prop :=
  (∀ (s : State) (w : Half), ∃ (u v : State) (g : Word32), exec (.crcGen2 w) s = .next u ∧ u.responses = s.responses ++ [⟨.ok, g⟩] ∧
    exec (.crcChk2 (g.extractLsb' 16 8) (g.extractLsb' 8 8) (g.extractLsb' 0 8)) u = .next v ∧
    v.responses = u.responses ++ [⟨.ok, w.setWidth 32⟩] ∧ v.crc = s.crc) ∧
  (∀ (s : State) (d : Byte), ∃ (u v : State) (g : Word32), exec (.crcGen1 d) s = .next u ∧ u.responses = s.responses ++ [⟨.ok, g⟩] ∧
    exec (.crcChk1 (g.extractLsb' 8 8) (g.extractLsb' 0 8)) u = .next v ∧
    v.responses = u.responses ++ [⟨.ok, d.setWidth 32⟩] ∧ v.crc = s.crc)

/-- 40_crc.md R99, which the spec derives: the one-shot operations against the streaming sequences they stand for; the
same CRC byte, the same verdict, and on an error the same `res[15:0]`. -/
def Obligations.OneShotAgreesWithStreaming : Prop :=
  (∀ (s : State) (d : Byte), s.moves = presentAll [.crcSeed, .crcUpd d, .crcGet] →
    ∃ (t u : State) (r q : Response), RunsTo 3 s t ∧ t.responses.getLast? = some r ∧
      exec (.crcGen1 d) s = .next u ∧ u.responses = s.responses ++ [q] ∧
      r.res.extractLsb' 0 8 = q.res.extractLsb' 0 8) ∧
  (∀ (s : State) (w : Half),
    s.moves = presentAll [.crcSeed, .crcUpd (w.extractLsb' 8 8), .crcUpd (w.extractLsb' 0 8), .crcGet] →
    ∃ (t u : State) (r q : Response), RunsTo 4 s t ∧ t.responses.getLast? = some r ∧
      exec (.crcGen2 w) s = .next u ∧ u.responses = s.responses ++ [q] ∧
      r.res.extractLsb' 0 8 = q.res.extractLsb' 0 8) ∧
  (∀ (s : State) (d e : Byte), s.moves = presentAll [.crcSeed, .crcUpd d, .crcChk e] →
    ∃ (t u : State) (r q : Response), RunsTo 3 s t ∧ t.responses.getLast? = some r ∧
      exec (.crcChk1 d e) s = .next u ∧ u.responses = s.responses ++ [q] ∧ (r.status = .ok ↔ q.status = .ok) ∧
      (q.status ≠ .ok → r.res.extractLsb' 0 16 = q.res.extractLsb' 0 16)) ∧
  (∀ (s : State) (d0 d1 e : Byte), s.moves = presentAll [.crcSeed, .crcUpd d0, .crcUpd d1, .crcChk e] →
    ∃ (t u : State) (r q : Response), RunsTo 4 s t ∧ t.responses.getLast? = some r ∧
      exec (.crcChk2 d0 d1 e) s = .next u ∧ u.responses = s.responses ++ [q] ∧ (r.status = .ok ↔ q.status = .ok) ∧
      (q.status ≠ .ok → r.res.extractLsb' 0 16 = q.res.extractLsb' 0 16))

/-- 40_crc.md R84: every group is computed from a fresh `CRC_INIT`. Of two groups that follow one another without a
`CRC.SEED`, the first finished by `CRC.GET` (R93) or by `CRC.CHK` (R94) with any byte, matching or not, the second's
checksum depends neither on the first nor on what `crc` held before it, whether `CRC.GET` reads it or `CRC.CHK`
compares it; and the one-shot operations compute the same whatever `crc` holds. -/
def Obligations.GroupsAreFreshlySeeded : Prop :=
  (∀ (s : State) (first second : List Byte) (finish : Instr), (finish = .crcGet ∨ ∃ e, finish = .crcChk e) →
    (s.moves = presentAll (first.map .crcUpd ++ [finish] ++ second.map .crcUpd ++ [.crcGet]) →
      ∃ t : State, RunsTo (first.length + second.length + 2) s t ∧ t.crc = s.config.crcInit ∧
        t.responses.getLast? = some ⟨.ok, (crc8 s.config second).setWidth 32⟩) ∧
    (∀ e : Byte, s.moves = presentAll (first.map .crcUpd ++ [finish] ++ second.map .crcUpd ++ [.crcChk e]) →
      ∃ (t : State) (last : Response), RunsTo (first.length + second.length + 2) s t ∧ t.crc = s.config.crcInit ∧
        t.responses.getLast? = some last ∧
        (crc8 s.config second = e → last = ⟨.ok, 0⟩) ∧
        (crc8 s.config second ≠ e →
          last = ⟨.checksumError, (0#16 ++ e ++ crc8 s.config second : BitVec 32)⟩))) ∧
  (∀ (s : State) (c : Byte) (i : Instr), i.streaming = false → ∃ r : Response,
    exec i s = .next { s with responses := s.responses ++ [r] } ∧
    exec i { s with crc := c } = .next { s with crc := c, responses := s.responses ++ [r] })

/-- 60_exceptions.md R146: the nine operations that cannot fail answer OK from every state. -/
def Obligations.NineOperationsCannotFail : Prop :=
  ∀ (s : State) (d : Byte) (w : Half) (t : Int),
    ∀ i ∈ [Instr.crcSeed, .crcUpd d, .crcGet, .crcGen1 d, .crcGen2 w, .cvtVoc t, .cvtRh t, .cvtTc t, .cvtTf t],
      ∃ (u : State) (res : Word32), exec i s = .next u ∧ u.responses = s.responses ++ [⟨.ok, res⟩]

/-- 60_exceptions.md R150, which the spec derives: after a failing operation the state is exactly what it was, but for
`CRC.CHK`, which has re-seeded the register as on success. -/
def Obligations.ErrorsArePrecise : Prop :=
  ∀ (s t : State) (w : OpWord) (rest : List HostMove) (r : Response), s.moves = .word w :: rest →
    step s = .next t → t.responses = s.responses ++ [r] → r.status ≠ .ok →
      ((∃ e, decode w = .ok (.crcChk e)) →
        t = { s with crc := s.config.crcInit, moves := rest, responses := s.responses ++ [r] }) ∧
      ((¬ ∃ e, decode w = .ok (.crcChk e)) →
        t = { s with moves := rest, responses := s.responses ++ [r] })

/-- From 30_encoding.md R67 (the spec's decision D30): the assembler produces exactly the legal words; only `.WORD`
can write an illegal one; a decimal offset assembles to v × 65536 or to nothing; and the rule's examples as text. The
reading of spaces and of the case of digits is the model's (notes/assumptions/9.md). -/
def Obligations.AssemblerProducesLegalWords : Prop :=
  (∀ (line : AsmLine) (ws : List OpWord), line.isWord = false → assemble line = some ws →
    ∀ w ∈ ws, isLegal w = true) ∧
  (∀ w : OpWord, isLegal w = true → ∃ line : AsmLine, line.isWord = false ∧ assemble line = some [w]) ∧
  (∀ w : OpWord, assemble (.word w.toNat) = some [w]) ∧
  (∀ (m x : Int) (k : Nat), asmOffset (.decimal m k) = some x ↔
    (x : ℚ) = (m : ℚ) / 10 ^ k * 65536 ∧ -2 ^ 31 ≤ x ∧ x ≤ 2 ^ 31 - 1) ∧
  assembleText "CRC.UPD 0xBE" = some [0x11000000BE] ∧ assembleText "CRC.GEN2 0xBEEF" = some [0x190000BEEF] ∧
  assembleText "CRC.CHK1 0x00, 0xAC" = some [0x1A000000AC] ∧
  assembleText "CRC.CHK2 0xBE, 0xEF, 0x92" = some [0x1B00BEEF92] ∧
  assembleText "CVT.TC -200" = some [0x220000FF38] ∧ assembleText "CVT.TC 0xFF38" = some [0x220000FF38] ∧
  assembleText "CVT.TOE 0x00010000" = some [0x2800010000] ∧ assembleText "CVT.TOE =1.0" = some [0x2800010000] ∧
  assembleText "CVT.TOE =-0.0625 ; a tie" = some [0x28FFFFF000] ∧ assembleText "CVT.TOE =0.1" = none ∧
  assembleText "CRC.SEED" = some [0x1000000000] ∧ assembleText "CRC.GET 0x00" = none ∧
  assembleText "CRC.VERIFY [0x31, 0x32], 0x60" = some [0x1000000000, 0x1100000031, 0x1100000032, 0x1300000060] ∧
  assembleText ".WORD 0x22FFFFFF38" = some [0x22FFFFFF38]

/-- What 70_reset_and_hazards.md R170 says of words in the middle of a streaming group, which the spec derives:
one-shot operations and illegal words, anywhere in a run, leave its final `crc` as it is without them. -/
def Obligations.OtherWordsDoNotDisturbAGroup : Prop :=
  ∀ s t u : State, RunsTo s.moves.length s t →
    RunsTo (s.moves.filter HostMove.touchesGroup).length { s with moves := s.moves.filter HostMove.touchesGroup } u →
    t.crc = u.crc

/-- From 70_reset_and_hazards.md R173 and 60_exceptions.md R145, for a frame of wire groups of one and two data bytes
(20_memory.md R41), each checked with `CRC.CHK1` or `CRC.CHK2`, and for a frame of groups of any length, each checked
with `CRC.VERIFY` (30_encoding.md R68): the responses may be used exactly if every group verifies, so one corrupted
group spoils the frame. The one-shot checks leave a streaming group in progress alone. -/
def Obligations.FrameUsableIffEveryGroupVerifies : Prop :=
  (∀ (s : State) (frame : List WireGroup), s.moves = presentAll (frame.map WireGroup.check) →
    ∃ (t : State) (new : List Response), RunsTo frame.length s t ∧ t.crc = s.crc ∧ t.config = s.config ∧
      t.responses = s.responses ++ new ∧ new.length = frame.length ∧
      (frameUsable new = true ↔ ∀ g ∈ frame, crc8 s.config g.data = g.crcByte)) ∧
  (∀ (s : State) (frame : List (List Byte × Byte)),
    s.moves = presentAll (frame.flatMap fun g => (PseudoOp.crcVerify g.1 g.2).expand) →
    ∃ (t : State) (new : List Response), RunsTo s.moves.length s t ∧ t.config = s.config ∧
      t.responses = s.responses ++ new ∧ new.length = s.moves.length ∧
      (frameUsable new = true ↔ ∀ g ∈ frame, crc8 s.config g.1 = g.2))
end

