-- ==== Sys2Proof/Laws/Crc8.lean ====
section
/-! SUPPORT. Small lemmas of the CRC computation. -/

namespace Sys2Proof.Machine

@[simp] theorem crc8Bytes_nil (poly c : Byte) : crc8Bytes poly c [] = c := rfl

@[simp] theorem crc8Bytes_cons (poly c b : Byte) (bs : List Byte) :
    crc8Bytes poly c (b :: bs) = crc8Bytes poly (crc8Byte poly c b) bs := rfl

/-- The register over a concatenation is the register over the second part, from where the first left it. -/
@[simp] theorem crc8Bytes_append (poly c : Byte) (as bs : List Byte) :
    crc8Bytes poly c (as ++ bs) = crc8Bytes poly (crc8Bytes poly c as) bs := by
  induction as generalizing c with
  | nil => rfl
  | cons a as ih => simp [ih]

/-- One bit, as the conditional XOR after the shift (40_crc.md R80). -/
theorem crc8Bit_eq (poly c : Byte) (b : Bool) :
    crc8Bit poly c b = (if c.getLsbD 7 = b then c <<< 1 else (c <<< 1) ^^^ poly) := by
  unfold crc8Bit
  cases c.getLsbD 7 <;> cases b <;> rfl

/-- One bit is linear over XOR in the register and the data bit together (40_crc.md R85). -/
theorem crc8Bit_xor (poly c d : Byte) (a b : Bool) :
    crc8Bit poly (c ^^^ d) (a ^^ b) = crc8Bit poly c a ^^^ crc8Bit poly d b := by
  unfold crc8Bit
  rw [BitVec.getLsbD_xor, BitVec.shiftLeft_xor_distrib]
  generalize c.getLsbD 7 = x
  generalize d.getLsbD 7 = y
  generalize c <<< 1 = u
  generalize d <<< 1 = v
  have cancel : u ^^^ v = u ^^^ poly ^^^ (v ^^^ poly) := by
    rw [BitVec.xor_comm v, BitVec.xor_assoc, ← BitVec.xor_assoc poly, BitVec.xor_self, BitVec.zero_xor]
  have right : u ^^^ v ^^^ poly = u ^^^ (v ^^^ poly) := BitVec.xor_assoc _ _ _
  have left : u ^^^ v ^^^ poly = u ^^^ poly ^^^ v := by
    rw [BitVec.xor_assoc, BitVec.xor_comm v, BitVec.xor_assoc]
  cases x <;> cases y <;> cases a <;> cases b <;> first | rfl | exact cancel | exact right | exact left

/-- One byte is linear over XOR in the register and the data byte together (40_crc.md R85). -/
theorem crc8Byte_xor (poly c d a b : Byte) :
    crc8Byte poly (c ^^^ d) (a ^^^ b) = crc8Byte poly c a ^^^ crc8Byte poly d b := by
  simp only [crc8Byte, BitVec.getLsbD_xor, crc8Bit_xor]

/-- A data bit XORed with the top bit is consumed: the step sees only their XOR (40_crc.md R80). -/
theorem crc8Bit_eq_step8Bit (poly c : Byte) (b : Bool) :
    crc8Bit poly c b = step8Bit poly (c ^^^ if b then 0x80#8 else 0#8) := by
  have h80 : 0x80#8 <<< 1 = 0#8 := by decide
  have t80 : (0x80#8).getLsbD 7 = true := by decide
  unfold crc8Bit step8Bit
  cases b
  · simp only [Bool.xor_false, Bool.false_eq_true, if_false, BitVec.xor_zero]
  · simp only [if_true, BitVec.getLsbD_xor, t80, BitVec.shiftLeft_xor_distrib, h80, BitVec.xor_zero]

/-- A low part of the register is only shifted along (40_crc.md R85). -/
theorem step8Bit_xor_low (poly v u : Byte) (h : u.getLsbD 7 = false) :
    step8Bit poly (v ^^^ u) = step8Bit poly v ^^^ (u <<< 1) := by
  unfold step8Bit
  rw [BitVec.getLsbD_xor, h, Bool.xor_false, BitVec.shiftLeft_xor_distrib]
  cases v.getLsbD 7
  · rfl
  · simp only [if_true]
    rw [BitVec.xor_assoc, BitVec.xor_comm (u <<< 1), BitVec.xor_assoc]

end Sys2Proof.Machine
end

