-- ==== Sys2Proof/Laws/Decode.lean ====
section
/-! SUPPORT. The numbers behind encoded words and their fields. Every mask of the opcode map names the top bits of a word, so a row selects an interval of words. -/

namespace Sys2Proof

theorem opWord_toNat (op : Byte) (arg : Word32) : (opWord op arg).toNat = op.toNat * 2 ^ 32 + arg.toNat := by
  have h : (op ++ arg : BitVec (8 + 32)).toNat = op.toNat * 2 ^ 32 + arg.toNat := by
    rw [BitVec.toNat_append, Nat.shiftLeft_eq, Nat.mul_comm, Nat.two_pow_add_eq_or_of_lt arg.isLt]
  exact h

theorem argB_toNat (b : Byte) : (argB b).toNat = b.toNat := by
  have h : (0#24 ++ b : BitVec (24 + 8)).toNat = b.toNat := by
    rw [BitVec.toNat_append]; simp
  exact h

theorem argH_toNat (h : Half) : (argH h).toNat = h.toNat := by
  have h' : (0#16 ++ h : BitVec (16 + 16)).toNat = h.toNat := by
    rw [BitVec.toNat_append]; simp
  exact h'

theorem argG1_toNat (d e : Byte) : (argG1 d e).toNat = d.toNat * 256 + e.toNat := by
  have h : (0#16 ++ d ++ e : BitVec (16 + 8 + 8)).toNat = d.toNat * 2 ^ 8 + e.toNat := by
    rw [BitVec.toNat_append, BitVec.toNat_append, Nat.shiftLeft_eq, Nat.mul_comm, ← Nat.two_pow_add_eq_or_of_lt e.isLt]
    simp [Nat.mul_comm]
  exact h

theorem argG2_toNat (d0 d1 e : Byte) : (argG2 d0 d1 e).toNat = d0.toNat * 65536 + d1.toNat * 256 + e.toNat := by
  have h : (0#8 ++ d0 ++ d1 ++ e : BitVec (8 + 8 + 8 + 8)).toNat
      = (d0.toNat * 2 ^ 8 + d1.toNat) * 2 ^ 8 + e.toNat := by
    rw [BitVec.toNat_append, BitVec.toNat_append, BitVec.toNat_append, Nat.shiftLeft_eq, Nat.shiftLeft_eq,
      Nat.mul_comm, ← Nat.two_pow_add_eq_or_of_lt e.isLt, Nat.mul_comm _ (2 ^ 8),
      ← Nat.two_pow_add_eq_or_of_lt d1.isLt]
    simp [Nat.mul_comm]
  rw [show (argG2 d0 d1 e).toNat = (0#8 ++ d0 ++ d1 ++ e : BitVec (8 + 8 + 8 + 8)).toNat from rfl, h]
  omega

/-- A format B word written out field by field. -/
theorem formatB_eq (op b : Byte) : (op ++ 0#24 ++ b : OpWord) = opWord op (argB b) := BitVec.append_assoc

/-- A format H word written out field by field. -/
theorem formatH_eq (op : Byte) (h : Half) : (op ++ 0#16 ++ h : OpWord) = opWord op (argH h) := BitVec.append_assoc

theorem opField_toNat (w : OpWord) : (opField w).toNat = w.toNat / 4294967296 % 256 := by
  simp [opField, BitVec.extractLsb'_toNat, Nat.shiftRight_eq_div_pow]

theorem argByte0_toNat (w : OpWord) : (argByte0 w).toNat = w.toNat % 256 := by
  simp [argByte0, BitVec.extractLsb'_toNat]

theorem argByte1_toNat (w : OpWord) : (argByte1 w).toNat = w.toNat / 256 % 256 := by
  simp [argByte1, BitVec.extractLsb'_toNat, Nat.shiftRight_eq_div_pow]

theorem argByte2_toNat (w : OpWord) : (argByte2 w).toNat = w.toNat / 65536 % 256 := by
  simp [argByte2, BitVec.extractLsb'_toNat, Nat.shiftRight_eq_div_pow]

theorem argHalf_toNat (w : OpWord) : (argHalf w).toNat = w.toNat % 65536 := by
  simp [argHalf, BitVec.extractLsb'_toNat]

/-- The tick operand of a format H word is read back (30_encoding.md R58). -/
theorem argTicks_opWord_argT (op : Byte) (t : Int) (h : ticksInRange t = true) :
    argTicks (opWord op (argT t)) = t := by
  have hh : argHalf (opWord op (argT t)) = BitVec.ofInt 16 t := by
    apply BitVec.eq_of_toNat_eq
    rw [argHalf_toNat, opWord_toNat, argT, argH_toNat]
    have := (BitVec.ofInt 16 t).isLt
    omega
  simp only [ticksInRange, decide_eq_true_eq] at h
  rw [argTicks, hh, BitVec.toInt_ofInt_eq_self (by norm_num) (by norm_num; omega) (by norm_num; omega)]

/-- The operand of a format W word is read back (30_encoding.md R58). -/
theorem argOffset_opWord_argW (op : Byte) (x : Int) (h : offsetInRange x = true) :
    argOffset (opWord op (argW x)) = x := by
  have hh : ((opWord op (argW x)).extractLsb' 0 32 : Word32) = BitVec.ofInt 32 x := by
    apply BitVec.eq_of_toNat_eq
    rw [BitVec.extractLsb'_toNat, opWord_toNat, argW]
    have := (BitVec.ofInt 32 x).isLt
    simp only [Nat.shiftRight_zero]
    omega
  simp only [offsetInRange, decide_eq_true_eq] at h
  rw [argOffset, hh, BitVec.toInt_ofInt_eq_self (by norm_num) (by norm_num; omega) (by norm_num; omega)]

/-- A mask of the high bits keeps the quotient by the power of two below it. -/
theorem and_highMask_toNat (w : OpWord) (k : Nat) :
    (w &&& (BitVec.allOnes 40 <<< k)).toNat = w.toNat / 2 ^ k * 2 ^ k := by
  have h : w &&& (BitVec.allOnes 40 <<< k) = (w >>> k) <<< k := by
    ext i hi
    simp only [BitVec.getElem_and, BitVec.getElem_shiftLeft, BitVec.getElem_ushiftRight, BitVec.getElem_allOnes]
    by_cases hik : i < k
    · simp [hik]
    · have : k + (i - k) = i := by omega
      simp [hik, this, BitVec.getLsbD_eq_getElem hi]
  have hlt : w.toNat / 2 ^ k * 2 ^ k < 2 ^ 40 := lt_of_le_of_lt (Nat.div_mul_le_self _ _) w.isLt
  rw [h, BitVec.toNat_shiftLeft, BitVec.toNat_ushiftRight, Nat.shiftLeft_eq, Nat.shiftRight_eq_div_pow,
    Nat.mod_eq_of_lt hlt]

/-- A row whose mask is the bits from `k` up selects exactly the words from its match to 2^k beyond it. -/
theorem selects_iff_interval (r : Row) (k : Nat) (hmask : r.mask = BitVec.allOnes 40 <<< k)
    (hmatch : 2 ^ k ∣ r.matchBits.toNat) (w : OpWord) :
    r.selects w = true ↔ r.matchBits.toNat ≤ w.toNat ∧ w.toNat < r.matchBits.toNat + 2 ^ k := by
  obtain ⟨m, hm⟩ := hmatch
  have hpos : 0 < 2 ^ k := Nat.two_pow_pos k
  rw [Row.selects, beq_iff_eq, hmask, ← BitVec.toNat_inj, and_highMask_toNat w k, hm, Nat.mul_comm (2 ^ k) m]
  rw [Nat.mul_right_cancel_iff hpos, Nat.div_eq_iff hpos]
  omega

end Sys2Proof
end

