-- ==== Sys2Proof/Laws/State.lean ====
section
/-! SUPPORT. What each update of the state does to each field. -/

namespace Sys2Proof.Machine

@[simp] theorem writeCrc_config (v : Byte) (s : State) : (writeCrc v s).config = s.config := rfl
@[simp] theorem writeCrc_crc (v : Byte) (s : State) : (writeCrc v s).crc = v := rfl
@[simp] theorem writeCrc_moves (v : Byte) (s : State) : (writeCrc v s).moves = s.moves := rfl
@[simp] theorem writeCrc_responses (v : Byte) (s : State) : (writeCrc v s).responses = s.responses := rfl

@[simp] theorem seed_config (s : State) : (seed s).config = s.config := rfl
@[simp] theorem seed_crc (s : State) : (seed s).crc = s.config.crcInit := rfl
@[simp] theorem seed_moves (s : State) : (seed s).moves = s.moves := rfl
@[simp] theorem seed_responses (s : State) : (seed s).responses = s.responses := rfl

@[simp] theorem deliver_config (r : Response) (s : State) : (deliver r s).config = s.config := rfl
@[simp] theorem deliver_crc (r : Response) (s : State) : (deliver r s).crc = s.crc := rfl
@[simp] theorem deliver_moves (r : Response) (s : State) : (deliver r s).moves = s.moves := rfl
@[simp] theorem deliver_responses (r : Response) (s : State) : (deliver r s).responses = s.responses ++ [r] := rfl

@[simp] theorem applyReset_config (s : State) : (applyReset s).config = s.config := rfl
@[simp] theorem applyReset_crc (s : State) : (applyReset s).crc = s.config.crcInit := rfl
@[simp] theorem applyReset_moves (s : State) : (applyReset s).moves = s.moves := rfl
@[simp] theorem applyReset_responses (s : State) : (applyReset s).responses = s.responses := rfl

@[simp] theorem present_config (w : OpWord) (s : State) : (present w s).config = s.config := rfl
@[simp] theorem present_crc (w : OpWord) (s : State) : (present w s).crc = s.crc := rfl
@[simp] theorem present_moves (w : OpWord) (s : State) : (present w s).moves = .word w :: s.moves := rfl
@[simp] theorem present_responses (w : OpWord) (s : State) : (present w s).responses = s.responses := rfl

@[simp] theorem idle_eq (s : State) : idle s = s := rfl

end Sys2Proof.Machine
end

