-- ==== Sys2Proof/Laws/Ops.lean ====
section
/-! SUPPORT. For each shared operation, one lemma that says all it can do. -/

namespace Sys2Proof.Machine

/-- `respond` completes, delivers exactly one response and touches nothing else. -/
theorem respond_next_iff (st : Status) (res : Word32) (s t : State) :
    respond st res s = .next t ↔ t = deliver ⟨st, res⟩ s := by
  simp [respond, eq_comm]

/-- `raise` is a response with the exception's status and `res`. -/
theorem raise_next_iff (e : ErrorKind) (res : Word32) (s t : State) :
    raise e res s = .next t ↔ t = deliver ⟨e.status, res⟩ s := respond_next_iff _ _ _ _

/-- An illegal word delivers status 3 with `res` = 0 and changes no state. -/
theorem raiseIllegal_next_iff (s t : State) :
    raiseIllegal s = .next t ↔ t = deliver ⟨.illegalOperation, 0⟩ s := raise_next_iff _ _ _ _

/-- `takeMove` answers none exactly when the host presents nothing, else the first move. -/
theorem takeMove_cases (s : State) :
    (s.moves = [] ∧ takeMove s = none) ∨
    ∃ m rest, s.moves = m :: rest ∧ takeMove s = some (m, { s with moves := rest }) := by
  unfold takeMove
  cases h : s.moves with
  | nil => exact .inl ⟨rfl, rfl⟩
  | cons m rest => exact .inr ⟨m, rest, rfl, rfl⟩

/-- The comparison of two CRC bytes is equality of all eight bits. -/
@[simp] theorem crcMatches_iff (c e : Byte) : crcMatches c e = true ↔ c = e := by simp [crcMatches]

@[simp] theorem verify_iff (cfg : Config) (data : List Byte) (e : Byte) :
    verify cfg data e = true ↔ crc8 cfg data = e := by simp [verify]

/-- The range test of `CVT.TOE`, as an inequality on integers. -/
theorem offsetRefused_iff (cfg : Config) (x : Int) :
    offsetRefused cfg x = true ↔ x > cfg.toffLimit ∨ x < -cfg.toffLimit := by simp [offsetRefused]

/-- The configured limit is in the range of 00_scope.md R6. -/
theorem toffLimit_range (cfg : Config) : 0 ≤ cfg.toffLimit ∧ cfg.toffLimit ≤ 10737254 := by
  have h := cfg.toffLimitX.isLt
  constructor <;> unfold Config.toffLimit <;> omega

/-- The multiply-shift datapath as one floor division. -/
theorem mulshift_eq (t : Int) (k : Nat) : mulshift t k = (t * k + 8388608) / 16777216 := by
  simp [mulshift, asr, msRound, msShift]

/-- All that `rneDiv65536` can answer: a nearest integer, the even one at an exact half. -/
theorem rneDiv65536_spec (p : Int) :
    (2 * p - 131072 * rneDiv65536 p ≤ 65536 ∧ -65536 ≤ 2 * p - 131072 * rneDiv65536 p) ∧
    ((2 * p - 131072 * rneDiv65536 p = 65536 ∨ 2 * p - 131072 * rneDiv65536 p = -65536) →
      rneDiv65536 p % 2 = 0) := by
  simp only [rneDiv65536, asr]
  norm_num
  split
  · omega
  · split <;> omega

end Sys2Proof.Machine
end

