-- ==== Sys2Proof/Laws/PerInstr.lean ====
section
/-! SUPPORT. The family EncodesItsRow: the word of an operation selects the row of the opcode map that bears its
mnemonic, and that row reads the operation back. -/

namespace Sys2Proof.Laws

/-- The encoded word of `i` selects the row of `i`'s mnemonic (30_encoding.md R60), and the row's operand fields
(R58) give back `i` when it is well formed. -/
def EncodesItsRow.Statement (i : Instr) : Prop :=
  ∃ r ∈ opcodeMap, r.mnemonic = i.mnemonic ∧ r.selects (encode i) = true ∧
    (i.wellFormed = true → r.operands (encode i) = i)

theorem EncodesItsRow.crcSeed : EncodesItsRow.Statement .crcSeed := by
  refine ⟨⟨"CRC.SEED", 0x1000000000, 0xFFFFFFFFFF, fun _ => .crcSeed⟩,
    by simp [opcodeMap, streamRows], rfl, by decide, fun _ => rfl⟩

theorem EncodesItsRow.crcGet : EncodesItsRow.Statement .crcGet := by
  refine ⟨⟨"CRC.GET", 0x1200000000, 0xFFFFFFFFFF, fun _ => .crcGet⟩,
    by simp [opcodeMap, streamRows], rfl, by decide, fun _ => rfl⟩

/-- A format B word lies in its row and its byte is read back. -/
theorem encodesItsRow_formatB (op : Byte) (b : Byte) (r : Row)
    (hmask : r.mask = BitVec.allOnes 40 <<< 8) (hmatch : r.matchBits.toNat = op.toNat * 2 ^ 32) :
    r.selects (opWord op (argB b)) = true ∧ argByte0 (opWord op (argB b)) = b := by
  have hb := b.isLt
  constructor
  · rw [selects_iff_interval r 8 hmask (by omega), opWord_toNat, argB_toNat]
    omega
  · apply BitVec.eq_of_toNat_eq
    rw [argByte0_toNat, opWord_toNat, argB_toNat]
    omega

theorem EncodesItsRow.crcUpd (d : Byte) : EncodesItsRow.Statement (.crcUpd d) := by
  have h := encodesItsRow_formatB 0x11 d ⟨"CRC.UPD", 0x1100000000, 0xFFFFFFFF00, fun w => .crcUpd (argByte0 w)⟩
    (by decide) (by decide)
  exact ⟨_, by simp [opcodeMap, streamRows], rfl, h.1, fun _ => congrArg Instr.crcUpd h.2⟩

theorem EncodesItsRow.crcChk (e : Byte) : EncodesItsRow.Statement (.crcChk e) := by
  have h := encodesItsRow_formatB 0x13 e ⟨"CRC.CHK", 0x1300000000, 0xFFFFFFFF00, fun w => .crcChk (argByte0 w)⟩
    (by decide) (by decide)
  exact ⟨_, by simp [opcodeMap, streamRows], rfl, h.1, fun _ => congrArg Instr.crcChk h.2⟩

theorem EncodesItsRow.crcGen1 (d : Byte) : EncodesItsRow.Statement (.crcGen1 d) := by
  have h := encodesItsRow_formatB 0x18 d
    ⟨"CRC.GEN1", 0x1800000000, 0xFFFFFFFF00, fun w => .crcGen1 (argByte0 w)⟩ (by decide) (by decide)
  exact ⟨_, by simp [opcodeMap, groupRows], rfl, h.1, fun _ => congrArg Instr.crcGen1 h.2⟩

/-- A word whose `arg` is below 2^16 lies in the row of its opcode when the mask is the top 24 bits. -/
theorem selects_of_arg16 (op : Byte) (arg : Word32) (r : Row) (harg : arg.toNat < 2 ^ 16)
    (hmask : r.mask = BitVec.allOnes 40 <<< 16) (hmatch : r.matchBits.toNat = op.toNat * 2 ^ 32) :
    r.selects (opWord op arg) = true := by
  rw [selects_iff_interval r 16 hmask (by omega), opWord_toNat]
  omega

theorem EncodesItsRow.crcGen2 (w : Half) : EncodesItsRow.Statement (.crcGen2 w) := by
  have hw := w.isLt
  refine ⟨⟨"CRC.GEN2", 0x1900000000, 0xFFFFFF0000, fun w => .crcGen2 (argHalf w)⟩,
    by simp [opcodeMap, groupRows], rfl,
    selects_of_arg16 0x19 _ _ (by rw [argH_toNat]; omega) (by decide) (by decide), fun _ => ?_⟩
  refine congrArg Instr.crcGen2 (BitVec.eq_of_toNat_eq ?_)
  rw [argHalf_toNat, encode, opWord_toNat, argH_toNat]
  omega

theorem EncodesItsRow.crcChk1 (d e : Byte) : EncodesItsRow.Statement (.crcChk1 d e) := by
  have hd := d.isLt
  have he := e.isLt
  refine ⟨⟨"CRC.CHK1", 0x1A00000000, 0xFFFFFF0000, fun w => .crcChk1 (argByte1 w) (argByte0 w)⟩,
    by simp [opcodeMap, groupRows], rfl,
    selects_of_arg16 0x1A _ _ (by rw [argG1_toNat]; omega) (by decide) (by decide), fun _ => ?_⟩
  refine congrArg₂ Instr.crcChk1 (BitVec.eq_of_toNat_eq ?_) (BitVec.eq_of_toNat_eq ?_)
  · rw [argByte1_toNat, encode, opWord_toNat, argG1_toNat]
    omega
  · rw [argByte0_toNat, encode, opWord_toNat, argG1_toNat]
    omega

theorem EncodesItsRow.crcChk2 (d0 d1 e : Byte) : EncodesItsRow.Statement (.crcChk2 d0 d1 e) := by
  have h0 := d0.isLt
  have h1 := d1.isLt
  have he := e.isLt
  have hn : (encode (.crcChk2 d0 d1 e)).toNat = 27 * 2 ^ 32 + (d0.toNat * 65536 + d1.toNat * 256 + e.toNat) := by
    rw [encode, opWord_toNat, argG2_toNat]
    simp
  refine ⟨⟨"CRC.CHK2", 0x1B00000000, 0xFFFF000000,
      fun w => .crcChk2 (argByte2 w) (argByte1 w) (argByte0 w)⟩, by simp [opcodeMap, groupRows], rfl, ?_, fun _ => ?_⟩
  · rw [selects_iff_interval _ 24 (by decide) (by decide), hn]
    simp
    omega
  · have h2 : argByte2 (encode (.crcChk2 d0 d1 e)) = d0 :=
      BitVec.eq_of_toNat_eq (by rw [argByte2_toNat, hn]; omega)
    have h1 : argByte1 (encode (.crcChk2 d0 d1 e)) = d1 :=
      BitVec.eq_of_toNat_eq (by rw [argByte1_toNat, hn]; omega)
    have h0 : argByte0 (encode (.crcChk2 d0 d1 e)) = e :=
      BitVec.eq_of_toNat_eq (by rw [argByte0_toNat, hn]; omega)
    simp only [h0, h1, h2]

/-- A tick word has its `arg` below 2^16: the pattern is not sign-extended (30_encoding.md R58). -/
theorem argT_toNat_lt (t : Int) : (argT t).toNat < 2 ^ 16 := by
  rw [argT, argH_toNat]
  exact (BitVec.ofInt 16 t).isLt

theorem EncodesItsRow.cvtVoc (t : Int) : EncodesItsRow.Statement (.cvtVoc t) :=
  ⟨⟨"CVT.VOC", 0x2000000000, 0xFFFFFF0000, fun w => .cvtVoc (argTicks w)⟩, by simp [opcodeMap, convertRows], rfl,
    selects_of_arg16 0x20 _ _ (argT_toNat_lt t) (by decide) (by decide),
    fun h => congrArg Instr.cvtVoc (argTicks_opWord_argT _ t h)⟩

theorem EncodesItsRow.cvtRh (t : Int) : EncodesItsRow.Statement (.cvtRh t) :=
  ⟨⟨"CVT.RH", 0x2100000000, 0xFFFFFF0000, fun w => .cvtRh (argTicks w)⟩, by simp [opcodeMap, convertRows], rfl,
    selects_of_arg16 0x21 _ _ (argT_toNat_lt t) (by decide) (by decide),
    fun h => congrArg Instr.cvtRh (argTicks_opWord_argT _ t h)⟩

theorem EncodesItsRow.cvtTc (t : Int) : EncodesItsRow.Statement (.cvtTc t) :=
  ⟨⟨"CVT.TC", 0x2200000000, 0xFFFFFF0000, fun w => .cvtTc (argTicks w)⟩, by simp [opcodeMap, convertRows], rfl,
    selects_of_arg16 0x22 _ _ (argT_toNat_lt t) (by decide) (by decide),
    fun h => congrArg Instr.cvtTc (argTicks_opWord_argT _ t h)⟩

theorem EncodesItsRow.cvtTf (t : Int) : EncodesItsRow.Statement (.cvtTf t) :=
  ⟨⟨"CVT.TF", 0x2300000000, 0xFFFFFF0000, fun w => .cvtTf (argTicks w)⟩, by simp [opcodeMap, convertRows], rfl,
    selects_of_arg16 0x23 _ _ (argT_toNat_lt t) (by decide) (by decide),
    fun h => congrArg Instr.cvtTf (argTicks_opWord_argT _ t h)⟩

theorem EncodesItsRow.cvtToe (x : Int) : EncodesItsRow.Statement (.cvtToe x) := by
  have hx := (argW x).isLt
  refine ⟨⟨"CVT.TOE", 0x2800000000, 0xFF00000000, fun w => .cvtToe (argOffset w)⟩, by simp [opcodeMap, convertRows],
    rfl, ?_, fun h => congrArg Instr.cvtToe (argOffset_opWord_argW _ x h)⟩
  rw [selects_iff_interval _ 32 (by decide) (by decide), encode, opWord_toNat]
  simp
  omega

end Sys2Proof.Laws
end

