-- ==== Sys2Proof/Laws/Step.lean ====
section
/-! SUPPORT. What one step can do, and how a run unfolds into steps. -/

namespace Sys2Proof.Machine

/-- The four things a step can be: idle, a reset, the operation a word decodes to, or an illegal word. -/
theorem step_cases (s : State) :
    (s.moves = [] ∧ step s = .next s) ∨
    (∃ rest, s.moves = .reset :: rest ∧ step s = .next (applyReset { s with moves := rest })) ∨
    (∃ w rest i, s.moves = .word w :: rest ∧ decode w = .ok i ∧ step s = exec i { s with moves := rest }) ∨
    (∃ w rest e, s.moves = .word w :: rest ∧ decode w = .error e ∧ step s = raiseIllegal { s with moves := rest }) := by
  rcases takeMove_cases s with ⟨hm, ht⟩ | ⟨m, rest, hm, ht⟩
  · exact .inl ⟨hm, by simp only [step, ht, idle_eq]⟩
  · cases m with
    | reset => exact .inr (.inl ⟨rest, hm, by simp only [step, ht]⟩)
    | word w =>
      cases hd : decode w with
      | ok i => exact .inr (.inr (.inl ⟨w, rest, i, hm, hd, by simp only [step, ht, hd]⟩))
      | error e => exact .inr (.inr (.inr ⟨w, rest, e, hm, hd, by simp only [step, ht, hd]⟩))

@[simp] theorem run_zero (s : State) : run 0 s = .next s := rfl

/-- A run of `k + 1` steps of any machine is a step and a run of `k` steps. -/
theorem core_run_succ (m : Host.Core) (k : Nat) (s u : m.State) (h : m.step s = .next u) :
    m.run (k + 1) s = m.run k u := by
  simp only [Host.Core.run, h]

/-- A run of `k + 1` steps is a step and a run of `k` steps. -/
theorem run_succ (k : Nat) (s u : State) (h : step s = .next u) : run (k + 1) s = run k u :=
  core_run_succ core k s u h

end Sys2Proof.Machine
end

