-- ==== Sys2Proof/Tests/Slice0.lean ====
section
/-! SUPPORT. The model's own tests, with results taken from spec/: 95_test_vectors.md ("TV" below), the examples of the
rules, and words written out from 30_encoding.md R57 and R60. Then, for each statement with hypotheses, a witness. -/

namespace Sys2Proof.Tests

open Sys2Proof.Machine

/-- The machine after reset with another value in `crc`. -/
def withCrc (c : Byte) : State := { State.reset with crc := c }

/-- The machine after reset with these moves to come. -/
def withMoves (ms : List HostMove) : State := { State.reset with moves := ms }

/-- `crc` after, and each response as its code and its `res`. -/
def view : Host.Outcome State Fault Refusal → Option (Byte × List (BitVec 3 × Word32))
  | .next t => some (t.crc, t.responses.map fun r => (r.status.code, r.res))
  | .fault _ => none
  | .refused _ => none

/-! ## Ill-formed operands -/

theorem test_ticks_above_range_refused : (Instr.cvtVoc 32768).wellFormed = false := by decide
theorem test_ticks_below_range_refused : (Instr.cvtTc (-32769)).wellFormed = false := by decide
theorem test_ticks_rh_refused : (Instr.cvtRh 40000).wellFormed = false := by decide
theorem test_ticks_tf_refused : (Instr.cvtTf (-40000)).wellFormed = false := by decide
theorem test_offset_above_range_refused : (Instr.cvtToe 2147483648).wellFormed = false := by decide
theorem test_offset_below_range_refused : (Instr.cvtToe (-2147483649)).wellFormed = false := by decide

/-! ## Decoding: for each operation a word written out from its encoding -/

theorem test_decode_crcSeed :
    decode 0b0001000000000000000000000000000000000000 = .ok .crcSeed := by decide
theorem test_decode_crcUpd :
    decode 0b0001000100000000000000000000000010111110 = .ok (.crcUpd 0xBE) := by decide
theorem test_decode_crcGet :
    decode 0b0001001000000000000000000000000000000000 = .ok .crcGet := by decide
theorem test_decode_crcChk :
    decode 0b0001001100000000000000000000000010010010 = .ok (.crcChk 0x92) := by decide
theorem test_decode_crcGen1 :
    decode 0b0001100000000000000000000000000000000001 = .ok (.crcGen1 0x01) := by decide
theorem test_decode_crcGen2 :
    decode 0b0001100100000000000000001011111011101111 = .ok (.crcGen2 0xBEEF) := by decide
theorem test_decode_crcChk1 :
    decode 0b0001101000000000000000000000000110011101 = .ok (.crcChk1 0x01 0x9D) := by decide
theorem test_decode_crcChk2 :
    decode 0b0001101100000000101111101110111110010010 = .ok (.crcChk2 0xBE 0xEF 0x92) := by decide
theorem test_decode_cvtVoc :
    decode 0b0010000000000000000000001000000000000000 = .ok (.cvtVoc (-32768)) := by decide
theorem test_decode_cvtRh :
    decode 0b0010000100000000000000000001000110010100 = .ok (.cvtRh 4500) := by decide
theorem test_decode_cvtTc :
    decode 0b0010001000000000000000001111111100111000 = .ok (.cvtTc (-200)) := by decide
theorem test_decode_cvtTf :
    decode 0b0010001100000000000000000111111111111111 = .ok (.cvtTf 32767) := by decide
theorem test_decode_cvtToe :
    decode 0b0010100010000000000000000000000000000000 = .ok (.cvtToe (-2147483648)) := by decide

/-- TV section 4: a reserved opcode, and a reserved `arg` bit in formats Z, B, H, G1, G2, and sign-extended ticks. -/
theorem test_decode_refuses_by_name :
    decode 0x0F00000000 = .error .reservedOpcode ∧ decode 0x2900000000 = .error .reservedOpcode ∧
    decode 0x1000000001 = .error .reservedArgBits ∧ decode 0x1100000100 = .error .reservedArgBits ∧
    decode 0x2100010000 = .error .reservedArgBits ∧ decode 0x1A00010000 = .error .reservedArgBits ∧
    decode 0x1B01000000 = .error .reservedArgBits ∧ decode 0x22FFFFFF38 = .error .reservedArgBits := by decide

/-- 30_encoding.md R67: the words of two lines with two and three operands. -/
theorem test_encode_operand_order :
    encode (.crcChk1 0x00 0xAC) = 0x1A000000AC ∧ encode (.crcChk2 0xBE 0xEF 0x92) = 0x1B00BEEF92 := by decide

/-- The host's numbering of a row's bits, and the first step after reset with it (TV 2.3, first row). -/
theorem test_table_word :
    decodeTableWord 40 0x1100000000 = some (.crcUpd 0x00) ∧
    view (step (State.reset.withFetchWord 40 0x1100000000)) = some (0xAC, [(0, 0x000000AC)]) := by decide

/-! ## One step of each operation -/

/-- TV 2.6. -/
theorem test_crcSeed : view (exec .crcSeed (withCrc 0x0C)) = some (0xFF, [(0, 0)]) := by decide
/-- TV 2.3: 0x5A ^ 0xA5 = 0xFF. -/
theorem test_crcUpd : view (exec (.crcUpd 0xA5) (withCrc 0x5A)) = some (0xAC, [(0, 0xAC)]) := by decide
/-- TV 2.3: zero residue. -/
theorem test_crcUpd_residue : view (exec (.crcUpd 0x92) (withCrc 0x92)) = some (0x00, [(0, 0)]) := by decide
/-- TV 2.6. -/
theorem test_crcGet : view (exec .crcGet (withCrc 0x92)) = some (0xFF, [(0, 0x92)]) := by decide
/-- TV 2.6. -/
theorem test_crcChk_match : view (exec (.crcChk 0x92) (withCrc 0x92)) = some (0xFF, [(0, 0)]) := by decide
/-- TV 2.6. -/
theorem test_crcChk_mismatch : view (exec (.crcChk 0x93) (withCrc 0x92)) = some (0xFF, [(1, 0x9392)]) := by decide
/-- TV 2.4. -/
theorem test_crcGen1 : view (exec (.crcGen1 0xFE) (withCrc 0x0C)) = some (0x0C, [(0, 0x0000FE31)]) := by decide
/-- TV 2.4. -/
theorem test_crcGen2 : view (exec (.crcGen2 0x0100) (withCrc 0x0C)) = some (0x0C, [(0, 0x00010075)]) := by decide +kernel
/-- TV 2.5: a good group whose CRC byte is 00. -/
theorem test_crcChk1_match : view (exec (.crcChk1 0xFF 0x00) (withCrc 0x0C)) = some (0x0C, [(0, 0xFF)]) := by decide
/-- TV 2.5: data bit 7 flipped. -/
theorem test_crcChk1_mismatch :
    view (exec (.crcChk1 0x80 0xAC) (withCrc 0x0C)) = some (0x0C, [(1, 0x0000ACD6)]) := by decide
/-- TV 2.5. -/
theorem test_crcChk2_match :
    view (exec (.crcChk2 0xBE 0xEF 0x92) (withCrc 0x0C)) = some (0x0C, [(0, 0xBEEF)]) := by decide +kernel
/-- TV 2.5: bytes swapped. -/
theorem test_crcChk2_mismatch :
    view (exec (.crcChk2 0xEF 0xBE 0x92) (withCrc 0x0C)) = some (0x0C, [(1, 0x000092CE)]) := by decide +kernel
/-- TV 3.1. -/
theorem test_cvtVoc_smallest : view (exec (.cvtVoc (-32768)) (withCrc 0x0C)) = some (0x0C, [(0, 0xF3333333)]) := by decide
/-- TV 3.1. -/
theorem test_cvtVoc_exact : view (exec (.cvtVoc 1000) (withCrc 0x0C)) = some (0x0C, [(0, 0x00640000)]) := by decide
/-- TV 3.1. -/
theorem test_cvtRh_smallest : view (exec (.cvtRh (-32768)) (withCrc 0x0C)) = some (0x0C, [(0, 0xFEB851EC)]) := by decide
/-- TV 3.1. -/
theorem test_cvtRh_exact : view (exec (.cvtRh 4500) (withCrc 0x0C)) = some (0x0C, [(0, 0x002D0000)]) := by decide
/-- TV 3.1. -/
theorem test_cvtTc_negative : view (exec (.cvtTc (-3)) (withCrc 0x0C)) = some (0x0C, [(0, 0xFFFFFC29)]) := by decide
/-- TV 3.1. -/
theorem test_cvtTc_largest : view (exec (.cvtTc 32767) (withCrc 0x0C)) = some (0x0C, [(0, 0x00A3D5C3)]) := by decide
/-- TV 3.1. -/
theorem test_cvtTf_negative : view (exec (.cvtTf (-6000)) (withCrc 0x0C)) = some (0x0C, [(0, 0xFFEA0000)]) := by decide
/-- TV 3.1. -/
theorem test_cvtTf_inexact : view (exec (.cvtTf 2600) (withCrc 0x0C)) = some (0x0C, [(0, 0x00376666)]) := by decide
/-- TV 3.2: an exact tie that goes up to the even neighbour, and a negative result, zero-extended. -/
theorem test_cvtToe_rounds :
    view (exec (.cvtToe 0x3000) (withCrc 0x0C)) = some (0x0C, [(0, 0x26)]) ∧
    view (exec (.cvtToe (-0x1000)) (withCrc 0x0C)) = some (0x0C, [(0, 0xFFF4)]) := by decide
/-- TV 3.2: one LSB outside the limit, and the most negative X. -/
theorem test_cvtToe_refuses :
    view (exec (.cvtToe 0x001E0001) (withCrc 0x0C)) = some (0x0C, [(2, 0)]) ∧
    view (exec (.cvtToe (-2147483648)) (withCrc 0x0C)) = some (0x0C, [(2, 0)]) := by decide
/-- TV section 4: an illegal word in the middle of a streaming group. -/
theorem test_illegal_word :
    view (step (present 0x1100000100 (withCrc 0x0C))) = some (0x0C, [(3, 0)]) := by decide
/-- 70_reset_and_hazards.md R165, R166. -/
theorem test_reset_event : view (step { withCrc 0x0C with moves := [.reset] }) = some (0xFF, []) := by decide
/-- 30_encoding.md R68. -/
theorem test_verify_expansion :
    (PseudoOp.crcVerify [0xBE] 0x0C).expand = [.crcSeed, .crcUpd 0xBE, .crcChk 0x0C] := by decide
/-- 30_encoding.md R67: an operand that does not fit is an assembly error. -/
theorem test_assembly_errors :
    assemble (.crcUpd 0x100) = none ∧ assemble (.cvtTc (.decimal 32768)) = none ∧
    assemble (.cvtToe (.decimal (-32769) 0)) = none := by decide

/-- 30_encoding.md R67: the text of a line; a comment line stands for no operation. -/
theorem test_assemble_text :
    assembleText "CRC.CHK2 0xBE, 0xEF, 0x92 ; good" = some [0x1B00BEEF92] ∧
    assembleText "CVT.TOE =-0.0625" = some [0x28FFFFF000] ∧ assembleText "; host: stop" = some [] ∧
    assembleText "crc.seed" = none ∧ assembleText ".WORD 0xFF" = none ∧
    assembleText "CRC.CALC []" = some [0x1000000000, 0x1200000000] := by decide +kernel

/-! ## Witnesses: a state and operands that meet a statement's hypotheses -/

theorem witness_DecodeOfEncode :
    (Instr.cvtVoc (-32768)).wellFormed = true ∧ (Instr.cvtTf 32767).wellFormed = true ∧
    (Instr.cvtToe (-2147483648)).wellFormed = true ∧ (Instr.cvtToe 2147483647).wellFormed = true := by decide

theorem witness_EncodeOfDecode : decode 0x2000008000 = .ok (.cvtVoc (-32768)) := by decide

theorem witness_ReservedOpcodesAreIllegal :
    opcodeDefined 0x00 = false ∧ opcodeDefined 0x0F = false ∧ opcodeDefined 0x14 = false ∧
    opcodeDefined 0x17 = false ∧ opcodeDefined 0x1C = false ∧ opcodeDefined 0x1F = false ∧
    opcodeDefined 0x24 = false ∧ opcodeDefined 0x27 = false ∧ opcodeDefined 0x29 = false ∧
    opcodeDefined 0xFF = false := by decide

theorem witness_ReservedArgBitsAreIllegal :
    (1#32 ≠ 0) ∧ (0x100#32 >>> 8 ≠ 0) ∧ (0x10000#32 >>> 16 ≠ 0) ∧ (0x1000000#32 >>> 24 ≠ 0) ∧
    ((-32768 : Int) ≤ -32768 ∧ (-32768 : Int) < 0) ∧ ((-32768 : Int) ≤ -1 ∧ (-1 : Int) < 0) := by decide

theorem witness_StepRunsDecodedWord :
    (withMoves [.word 0x11000000BE, .reset]).moves = .word 0x11000000BE :: [.reset] ∧
    decode 0x11000000BE = .ok (.crcUpd 0xBE) := by decide

theorem witness_IllegalWordChangesNothing :
    (withMoves [.word 0xFFFFFFFFFF]).moves = .word 0xFFFFFFFFFF :: [] ∧
    decode 0xFFFFFFFFFF = .error .reservedOpcode := by decide

theorem witness_StatusesAndTheirCauses_crcChk :
    (withMoves [.word 0x1300000000]).moves = .word 0x1300000000 :: [] ∧ decode 0x1300000000 = .ok (.crcChk 0x00) ∧
    (withMoves []).crc ≠ 0x00 := by decide

theorem witness_StatusesAndTheirCauses_crcChk1 :
    decode 0x1A000000AD = .ok (.crcChk1 0x00 0xAD) ∧ crc8 (withMoves []).config [0x00] ≠ 0xAD := by decide

theorem witness_StatusesAndTheirCauses_crcChk2 :
    decode 0x1B00BEEF93 = .ok (.crcChk2 0xBE 0xEF 0x93) ∧ crc8 (withMoves []).config [0xBE, 0xEF] ≠ 0x93 := by decide +kernel

theorem witness_StatusesAndTheirCauses_cvtToe :
    decode 0x28001E0001 = .ok (.cvtToe 0x001E0001) ∧ (0x001E0001 : Int) > (withMoves []).config.toffLimitX.val ∧
    decode 0x28FFE1FFFF = .ok (.cvtToe (-0x001E0001)) ∧
    (-0x001E0001 : Int) < -((withMoves []).config.toffLimitX.val : Int) := by decide

/-- A response of each error, in a state with a step to take. -/
def shaped : State :=
  { withMoves [.word 0x1300000000] with responses := [⟨.checksumError, 0x9392⟩, ⟨.encodingError, 0⟩, ⟨.illegalOperation, 0⟩] }

theorem witness_StepKeepsErrorResponsesFreeOfData :
    shaped.ResponsesShaped ∧ ∃ t, step shaped = .next t :=
  ⟨by unfold State.ResponsesShaped; decide, _, rfl⟩

theorem witness_StepKeepsCrcOfGroupInProgress :
    (present 0x11000000EF (withCrc 0x0C)).crc = crc8 (withCrc 0x0C).config [0xBE] ∧
    ∃ t, step (present 0x11000000EF (withCrc 0x0C)) = .next t := ⟨by decide, _, rfl⟩

theorem witness_RunKeepsCrcOfGroupInProgress :
    (withCrc 0x0C).crc = crc8 (withCrc 0x0C).config [0xBE] ∧ (withCrc 0xFF).crc = crc8 (withCrc 0xFF).config [] := by
  decide

theorem witness_ResetEventSeedsCrc : (withMoves [.reset, .reset]).moves = .reset :: [.reset] := rfl

theorem witness_IdleStepChangesNothing : (withCrc 0x0C).moves = [] := rfl

theorem witness_SingleBitErrorsAreDetected :
    Config.svm40.crcPoly.getLsbD 0 = true ∧ 0 < 8 ∧ 7 < 8 := by decide

theorem witness_CrcSeedWritesInit :
    ∃ t u, exec .crcSeed (withCrc 0x0C) = .next t ∧ exec .crcSeed t = .next u := ⟨_, _, rfl, rfl⟩

theorem witness_CrcGetReadsAndReseeds :
    ∃ t u, exec .crcGet (withCrc 0x92) = .next t ∧ exec .crcGet t = .next u := ⟨_, _, rfl, rfl⟩

theorem witness_CrcChkComparesAndReseeds :
    (withCrc 0x92).crc = 0x92 ∧ (withCrc 0x92).crc ≠ 0x93 ∧ ∃ t, exec (.crcChk 0xFF) State.reset = .next t :=
  ⟨by decide, by decide, _, rfl⟩

theorem witness_CrcChk1VerifiesGroup :
    crc8 State.reset.config [0xFF] = 0x00 ∧ crc8 State.reset.config [0xFF] ≠ 0xFF := by decide

theorem witness_CrcChk2VerifiesGroup :
    crc8 State.reset.config [0x00, 0x00] = 0x81 ∧ crc8 State.reset.config [0x00, 0x00] ≠ 0x00 := by decide +kernel

/-- For the four ticks-to-value statements, the datapath, the ranges and the exactness: both ends of the range. -/
theorem witness_ticks_range :
    ((-32768 : Int) ≤ -32768 ∧ (-32768 : Int) ≤ 32767) ∧ ((-32768 : Int) ≤ 32767 ∧ (32767 : Int) ≤ 32767) ∧
    (-32768 : Int) < 32767 := by decide

theorem witness_CvtToeEncodesOffset_refused :
    (0x001E0001 : Int) > State.reset.config.toffLimitX.val ∧
    (-0x001E0001 : Int) < -(State.reset.config.toffLimitX.val : Int) := by decide

theorem witness_CvtToeEncodesOffset_accepted :
    (-(State.reset.config.toffLimitX.val : Int) ≤ -0x001E0000 ∧
      (-0x001E0000 : Int) ≤ State.reset.config.toffLimitX.val) ∧
    (-(State.reset.config.toffLimitX.val : Int) ≤ 0x001E0000 ∧
      (0x001E0000 : Int) ≤ State.reset.config.toffLimitX.val) ∧
    ((0 : Int) < 1 ∧ (1 : Int) < 0xA4) ∧ ((0 : Int) < 0xA3 ∧ (0xA3 : Int) < 0xA4) := by decide

theorem witness_NearestMinimisesDistance :
    q16Nearest (1 / 131072) = 1 ∧ |(q16Nearest (1 / 131072) : ℚ) - 1 / 131072 * 65536| = |((0 : Int) : ℚ) - 1 / 131072 * 65536| ∧
    (0 : Int) ≠ q16Nearest (vocExact 1) := by
  have h : q16Nearest (1 / 131072) = 1 := by
    rw [q16Nearest, Int.floor_eq_iff]
    norm_num
  refine ⟨h, by rw [h]; norm_num, ?_⟩
  intro h0
  rw [q16Nearest, vocExact, vocDiv, eq_comm, Int.floor_eq_iff] at h0
  norm_num at h0

theorem witness_OffsetRoundTrip :
    State.reset.config.toffLimitX.val = 0x001E0000 ∧ (-6000 : Int) ≤ -6000 ∧ (6000 : Int) ≤ 6000 ∧ (25 : Int) ∣ -6000 ∧
    q16Value 0xFFE20000 = ((-6000 : Int) : ℚ) / 200 := by
  refine ⟨by decide, by decide, by decide, by decide, ?_⟩
  have h : (0xFFE20000 : Word32).toInt = -1966080 := by decide
  rw [q16Value, h]
  norm_num

theorem witness_OneShotIsAFunctionOfItsArgument :
    (Instr.cvtToe 0).streaming = false ∧ (withCrc 0x0C).config = (withCrc 0x92).config := by decide

theorem witness_CrcWrittenPerMove :
    (withMoves [.reset]).moves = .reset :: [] ∧ (withMoves [.word 0x0000000000]).moves = .word 0x0000000000 :: [] ∧
    isLegal 0x0000000000 = false ∧ decode 0x1100000000 = .ok (.crcUpd 0x00) ∧ decode 0x1000000000 = .ok .crcSeed ∧
    decode 0x1200000000 = .ok .crcGet ∧ decode 0x1300000000 = .ok (.crcChk 0x00) ∧
    decode 0x1800000000 = .ok (.crcGen1 0x00) ∧ (Instr.crcGen1 0x00).streaming = false := by decide

theorem witness_ResponsesAreNeverRead : ∃ t, step (withMoves [.word 0x1200000000]) = .next t := ⟨_, rfl⟩

theorem witness_PseudoOperationsCompute :
    (withMoves (presentAll [.crcSeed, .crcGet])).moves = presentAll (PseudoOp.crcCalc []).expand ++ [] ∧
    (withMoves (presentAll [.crcSeed, .crcUpd 0xBE, .crcChk 0x0C])).moves =
      presentAll (PseudoOp.crcVerify [0xBE] 0x0C).expand ++ [] ∧
    crc8 State.reset.config [0xBE] = 0x0C ∧ crc8 State.reset.config [0xBE] ≠ 0x0D := by decide

theorem witness_OneShotAgreesWithStreaming :
    (withMoves (presentAll [.crcSeed, .crcUpd 0x01, .crcGet])).moves = presentAll [.crcSeed, .crcUpd 0x01, .crcGet] ∧
    (withMoves (presentAll [.crcSeed, .crcUpd 0x01, .crcChk 0x9D])).moves =
      presentAll [.crcSeed, .crcUpd 0x01, .crcChk 0x9D] ∧
    (withMoves (presentAll [.crcSeed, .crcUpd 0xBE, .crcUpd 0xEF, .crcGet])).moves = presentAll
      [.crcSeed, .crcUpd ((0xBEEF : Half).extractLsb' 8 8), .crcUpd ((0xBEEF : Half).extractLsb' 0 8), .crcGet] ∧
    (withMoves (presentAll [.crcSeed, .crcUpd 0xBE, .crcUpd 0xEF, .crcChk 0x93])).moves =
      presentAll [.crcSeed, .crcUpd 0xBE, .crcUpd 0xEF, .crcChk 0x93] := by decide

theorem witness_GroupsAreFreshlySeeded :
    (withMoves (presentAll [.crcUpd 0x01, .crcGet, .crcUpd 0xBE, .crcUpd 0xEF, .crcGet])).moves = presentAll
      ([0x01].map .crcUpd ++ [.crcGet] ++ [0xBE, 0xEF].map .crcUpd ++ [.crcGet]) ∧
    (withMoves (presentAll [.crcUpd 0x01, .crcChk 0x9D, .crcUpd 0xBE, .crcUpd 0xEF, .crcGet])).moves = presentAll
      ([0x01].map .crcUpd ++ [.crcChk 0x9D] ++ [0xBE, 0xEF].map .crcUpd ++ [.crcGet]) ∧
    (Instr.crcChk2 0 0 0).streaming = false := by decide

/-- The second group's checksum is 0x92: once the byte compared matches, after a first group that did not, once not. -/
theorem witness_GroupsAreFreshlySeeded_crcChk :
    (withMoves (presentAll [.crcUpd 0x01, .crcChk 0x00, .crcUpd 0xBE, .crcUpd 0xEF, .crcChk 0x92])).moves = presentAll
      ([0x01].map .crcUpd ++ [.crcChk 0x00] ++ [0xBE, 0xEF].map .crcUpd ++ [.crcChk 0x92]) ∧
    (withMoves (presentAll [.crcGet, .crcUpd 0xBE, .crcUpd 0xEF, .crcChk 0x93])).moves = presentAll
      (([] : List Byte).map .crcUpd ++ [.crcGet] ++ [0xBE, 0xEF].map .crcUpd ++ [.crcChk 0x93]) ∧
    crc8 (withMoves []).config [0xBE, 0xEF] = 0x92 ∧ crc8 (withMoves []).config [0xBE, 0xEF] ≠ 0x93 :=
  ⟨by decide, by decide, by decide +kernel, by decide +kernel⟩

theorem witness_ErrorsArePrecise_crcChk :
    decode 0x1300000000 = .ok (.crcChk 0x00) ∧ ∃ t r, step (withMoves [.word 0x1300000000]) = .next t ∧
      t.responses = (withMoves []).responses ++ [r] ∧ r.status ≠ .ok :=
  ⟨by decide, _, _, rfl, rfl, by decide⟩

theorem witness_ErrorsArePrecise_others :
    (∃ x, decode 0x287FFFFFFF = .ok (.cvtToe x)) ∧ ∃ t r, step (withMoves [.word 0x287FFFFFFF]) = .next t ∧
      t.responses = (withMoves []).responses ++ [r] ∧ r.status ≠ .ok :=
  ⟨⟨2147483647, by decide⟩, _, _, rfl, rfl, by decide⟩

theorem witness_AssemblerProducesLegalWords :
    (AsmLine.crcCalc [0x31]).isWord = false ∧
    assemble (.crcCalc [0x31]) = some [0x1000000000, 0x1100000031, 0x1200000000] ∧ isLegal 0x28FFFFFFFF = true := by
  decide

theorem witness_FrameUsableIffEveryGroupVerifies :
    (withMoves (presentAll [.crcChk2 0xBE 0xEF 0x92, .crcChk1 0x01 0x9D])).moves =
      presentAll ([WireGroup.two 0xBE 0xEF 0x92, .one 0x01 0x9D].map WireGroup.check) := by decide

theorem witness_FrameUsableIffEveryGroupVerifies_streamed :
    (withMoves (presentAll [.crcSeed, .crcUpd 0x01, .crcChk 0x9D, .crcSeed, .crcChk 0xFF])).moves =
      presentAll ([([(0x01 : Byte)], (0x9D : Byte)), ([], 0xFF)].flatMap fun g =>
        (PseudoOp.crcVerify g.1 g.2).expand) := by decide

theorem witness_OtherWordsDoNotDisturbAGroup :
    ∃ t u, RunsTo (withMoves [.word 0x0000000000]).moves.length (withMoves [.word 0x0000000000]) t ∧
      RunsTo ((withMoves [.word 0x0000000000]).moves.filter HostMove.touchesGroup).length
        { withMoves [.word 0x0000000000] with
          moves := (withMoves [.word 0x0000000000]).moves.filter HostMove.touchesGroup } u := ⟨_, _, rfl, rfl⟩

end Sys2Proof.Tests
end

/-! PROOF. The running register along a run (10_state.md R24, R27): what each operation leaves in `crc`, that this is
the CRC of the group the move leaves, and the induction over the host's moves. -/

namespace Sys2Proof.Machine

/-! ## What an operation does to the state -/

/-- The value of `crc` after an operation, when it was `c` before: the access table of 10_state.md R27. -/
def crcAfterInstr (cfg : Config) (c : Byte) : Instr → Byte
  | .crcSeed | .crcGet | .crcChk _ => cfg.crcInit
  | .crcUpd d => crc8Byte cfg.crcPoly c d
  | .crcGen1 _ | .crcGen2 _ | .crcChk1 _ _ | .crcChk2 _ _ _
  | .cvtVoc _ | .cvtRh _ | .cvtTc _ | .cvtTf _ | .cvtToe _ => c

/-- Whichever way the test of an operation goes, one response is delivered on the same state. -/
theorem respond_or_raise_delivers (p : Prop) [Decidable p] (res eres : Word32) (e : ErrorKind) (s : State) :
    ∃ r, (if p then respond .ok res s else raise e eres s) = .next (deliver r s) := by
  split
  · exact ⟨_, rfl⟩
  · exact ⟨_, rfl⟩

/-- All that an operation can do: it completes, writes `crc` as 10_state.md R27 says and delivers one response. -/
theorem exec_delivers (i : Instr) (s : State) :
    ∃ r, exec i s = .next (deliver r (writeCrc (crcAfterInstr s.config s.crc i) s)) := by
  cases i with
  | crcSeed => exact ⟨_, rfl⟩
  | crcUpd d => exact ⟨_, rfl⟩
  | crcGet => exact ⟨_, rfl⟩
  | crcChk e => exact respond_or_raise_delivers _ _ _ _ (seed s)
  | crcGen1 d => exact ⟨_, rfl⟩
  | crcGen2 w => exact ⟨_, rfl⟩
  | crcChk1 d e => exact respond_or_raise_delivers _ _ _ _ s
  | crcChk2 d0 d1 e => exact respond_or_raise_delivers _ _ _ _ s
  | cvtVoc t => exact ⟨_, rfl⟩
  | cvtRh t => exact ⟨_, rfl⟩
  | cvtTc t => exact ⟨_, rfl⟩
  | cvtTf t => exact ⟨_, rfl⟩
  | cvtToe x =>
    -- here the error is the branch where the test succeeds
    rw [exec, execCvtToe, ← ite_not]
    exact respond_or_raise_delivers _ _ _ _ s

/-! ## The group in progress -/

@[simp] theorem crc8_nil (cfg : Config) : crc8 cfg [] = cfg.crcInit := rfl

/-- One byte more in a group is one byte step of the register. -/
theorem crc8_append_singleton (cfg : Config) (g : List Byte) (d : Byte) :
    crc8 cfg (g ++ [d]) = crc8Byte cfg.crcPoly (crc8 cfg g) d := by
  simp [crc8]

@[simp] theorem groupAfterMove_reset (g : List Byte) : groupAfterMove g .reset = [] := rfl

theorem groupAfterMove_of_decode_ok {w : OpWord} {i : Instr} (h : decode w = .ok i) (g : List Byte) :
    groupAfterMove g (.word w) = groupAfterInstr g i := by
  simp only [groupAfterMove, h]

theorem groupAfterMove_of_decode_error {w : OpWord} {e : DecodeError} (h : decode w = .error e) (g : List Byte) :
    groupAfterMove g (.word w) = g := by
  simp only [groupAfterMove, h]

@[simp] theorem groupAfter_nil (g : List Byte) : groupAfter g [] = g := rfl

@[simp] theorem groupAfter_cons (g : List Byte) (m : HostMove) (ms : List HostMove) :
    groupAfter g (m :: ms) = groupAfter (groupAfterMove g m) ms := rfl

/-- The value an operation leaves in `crc`, from the CRC of a group, is the CRC of the group it leaves. -/
theorem crcAfterInstr_crc8 (cfg : Config) (g : List Byte) (i : Instr) :
    crcAfterInstr cfg (crc8 cfg g) i = crc8 cfg (groupAfterInstr g i) := by
  cases i with
  | crcUpd d => exact (crc8_append_singleton cfg g d).symm
  | _ => rfl

/-! ## One move, and a run -/

/-- One move of the host, from a state whose `crc` is the CRC of a group. -/
theorem step_cons_keeps_crc_of_group {s : State} {m : HostMove} {rest : List HostMove} {g : List Byte}
    (hm : s.moves = m :: rest) (hg : s.crc = crc8 s.config g) :
    ∃ t, step s = .next t ∧ t.moves = rest ∧ t.config = s.config ∧ t.crc = crc8 s.config (groupAfterMove g m) := by
  rcases step_cases s with ⟨hnil, -⟩ | ⟨rest', hm', ht⟩ | ⟨w, rest', i, hm', hd, ht⟩ | ⟨w, rest', e, hm', hd, ht⟩
  · simp [hnil] at hm
  all_goals obtain ⟨rfl, rfl⟩ := List.cons.inj (hm.symm.trans hm')
  · exact ⟨_, ht, rfl, rfl, by simp⟩
  · obtain ⟨r, hr⟩ := exec_delivers i { s with moves := rest }
    refine ⟨_, ht.trans hr, rfl, rfl, ?_⟩
    rw [groupAfterMove_of_decode_ok hd, ← crcAfterInstr_crc8, ← hg]
    rfl
  · refine ⟨_, ht.trans ((raiseIllegal_next_iff _ _).mpr rfl), rfl, rfl, ?_⟩
    rw [groupAfterMove_of_decode_error hd, ← hg]
    rfl

/-- A run that takes all of the host's moves, from a state whose `crc` is the CRC of a group. -/
theorem run_keeps_crc_of_group (s : State) (g : List Byte) (hg : s.crc = crc8 s.config g) :
    ∃ t, RunsTo s.moves.length s t ∧ t.config = s.config ∧ t.crc = crc8 s.config (groupAfter g s.moves) := by
  induction hm : s.moves generalizing s g with
  | nil => exact ⟨s, run_zero s, rfl, by simpa using hg⟩
  | cons m rest ih =>
    obtain ⟨u, hstep, hmoves, hconfig, hcrc⟩ := step_cons_keeps_crc_of_group hm hg
    rw [← hconfig] at hcrc
    obtain ⟨t, hrun, hconfig', hcrc'⟩ := ih u (groupAfterMove g m) hcrc hmoves
    refine ⟨t, (run_succ rest.length s u hstep).trans hrun, hconfig'.trans hconfig, ?_⟩
    rw [hcrc', hconfig, groupAfter_cons]

/-- Settles O16: the reset state by evaluation, the run by induction on the host's moves. -/
theorem runKeepsCrcOfGroupInProgress : Obligations.RunKeepsCrcOfGroupInProgress :=
  ⟨⟨crc8_nil _, rfl⟩, run_keeps_crc_of_group⟩

end Sys2Proof.Machine

/-! PROOF. The decoder, seen through the two fields of a word (30_encoding.md R60 to R63): the opcode names the row,
and the row asks that the `arg` bits its format does not name are zero. -/

namespace Sys2Proof

/-! ## The rows of the opcode map -/

/-- How many low `arg` bits the format of a defined opcode names: the formats Z, B, G2, W, and H and G1 of
30_encoding.md R57. -/
def namedArgBits (op : Byte) : Nat :=
  if op = 0x10 ∨ op = 0x12 then 0
  else if op = 0x11 ∨ op = 0x13 ∨ op = 0x18 then 8
  else if op = 0x1B then 24
  else if op = 0x28 then 32
  else 16

theorem namedArgBits_le (op : Byte) : namedArgBits op ≤ 32 := by
  unfold namedArgBits
  split_ifs <;> omega

/-- The opcodes of R60, in table order. -/
theorem opcodeMap_opcodes : opcodeMap.map (fun r => opField r.matchBits) =
    [0x10, 0x11, 0x12, 0x13, 0x18, 0x19, 0x1A, 0x1B, 0x20, 0x21, 0x22, 0x23, 0x28] := by decide

/-- A row matches its opcode over a zero `arg`, and its mask leaves out just the bits its format names. -/
theorem opcodeMap_columns : ∀ r ∈ opcodeMap, r.matchBits.toNat = (opField r.matchBits).toNat * 2 ^ 32 ∧
    r.mask = BitVec.allOnes 40 <<< namedArgBits (opField r.matchBits) := by decide

/-- Two rows with the same opcode are the same row. -/
theorem row_eq_of_opcode_eq {r r' : Row} (h : r ∈ opcodeMap) (h' : r' ∈ opcodeMap)
    (heq : opField r.matchBits = opField r'.matchBits) : r = r' := by
  have hnodup : (opcodeMap.map fun r => opField r.matchBits).Nodup := by
    rw [opcodeMap_opcodes]
    decide
  exact List.inj_on_of_nodup_map hnodup h h' heq

theorem opcodeDefined_iff_mem (op : Byte) :
    opcodeDefined op = true ↔ op ∈ opcodeMap.map fun r => opField r.matchBits := by
  simp [opcodeDefined]

/-! ## Legal words -/

@[simp] theorem opField_opWord (op : Byte) (arg : Word32) : opField (opWord op arg) = op := by
  apply BitVec.eq_of_toNat_eq
  rw [opField_toNat, opWord_toNat]
  omega

theorem opWord_toNat_mod (op : Byte) (arg : Word32) : (opWord op arg).toNat % 2 ^ 32 = arg.toNat := by
  rw [opWord_toNat]
  omega

/-- A row selects the words of its opcode whose `arg` fits in the bits its format names. -/
theorem selects_iff_fields {r : Row} (hr : r ∈ opcodeMap) (w : OpWord) :
    r.selects w = true ↔
      opField r.matchBits = opField w ∧ w.toNat % 2 ^ 32 < 2 ^ namedArgBits (opField w) := by
  obtain ⟨hmatch, hmask⟩ := opcodeMap_columns r hr
  have hdvd : 2 ^ namedArgBits (opField r.matchBits) ∣ 2 ^ 32 := Nat.pow_dvd_pow 2 (namedArgBits_le _)
  have hle := Nat.le_of_dvd (by norm_num) hdvd
  rw [selects_iff_interval r _ hmask (hmatch ▸ hdvd.mul_left _), hmatch]
  constructor
  · rintro ⟨hlow, hhigh⟩
    have hop : opField r.matchBits = opField w := by
      apply BitVec.eq_of_toNat_eq
      rw [opField_toNat w]
      omega
    rw [hop] at hlow hhigh
    exact ⟨hop, by omega⟩
  · rintro ⟨hop, harg⟩
    have hw := opField_toNat w
    rw [hop]
    omega

/-- A word is legal exactly when its opcode is defined and every `arg` bit its format does not name is zero. -/
theorem isLegal_iff_fields (w : OpWord) :
    isLegal w = true ↔
      opcodeDefined (opField w) = true ∧ w.toNat % 2 ^ 32 < 2 ^ namedArgBits (opField w) := by
  rw [isLegal, List.any_eq_true, opcodeDefined_iff_mem, List.mem_map]
  constructor
  · rintro ⟨r, hr, hsel⟩
    obtain ⟨hop, harg⟩ := (selects_iff_fields hr w).mp hsel
    exact ⟨⟨r, hr, hop⟩, harg⟩
  · rintro ⟨⟨r, hr, hop⟩, harg⟩
    exact ⟨r, hr, (selects_iff_fields hr w).mpr ⟨hop, harg⟩⟩

/-- The decoder refuses every word that matches no row (R61). -/
theorem decode_error_of_not_isLegal {w : OpWord} (h : isLegal w = false) : ∃ e, decode w = .error e := by
  have hnone : opcodeMap.find? (fun r => r.selects w) = none := by
    rw [List.find?_eq_none]
    exact List.any_eq_false.mp h
  rw [decode, hnone]
  exact ⟨_, rfl⟩

/-- The decoder reads the operands by the row a word selects: no other row is selected (R60). -/
theorem decode_of_selects {r : Row} {w : OpWord} (hr : r ∈ opcodeMap) (hsel : r.selects w = true) :
    decode w = .ok (r.operands w) := by
  cases hfind : opcodeMap.find? (fun r => r.selects w) with
  | none => exact absurd hsel (List.find?_eq_none.mp hfind r hr)
  | some r' =>
    have hr' : r' ∈ opcodeMap := List.mem_of_find?_eq_some hfind
    have hop := ((selects_iff_fields hr w).mp hsel).1
    have hop' := ((selects_iff_fields hr' w).mp (List.find?_some (p := fun r : Row => r.selects w) hfind)).1
    obtain rfl : r' = r := row_eq_of_opcode_eq hr' hr (hop'.trans hop.symm)
    simp only [decode, hfind]

/-- An operation that its row reads back is read back by the decoder. -/
theorem decode_encode_of_encodesItsRow {i : Instr} (hrow : Laws.EncodesItsRow.Statement i)
    (hwf : i.wellFormed = true) : decode (encode i) = .ok i := by
  obtain ⟨r, hr, -, hsel, hread⟩ := hrow
  rw [decode_of_selects hr hsel, hread hwf]

/-! ## Illegal words -/

theorem ushiftRight_eq_zero_iff (arg : Word32) (k : Nat) : arg >>> k = 0 ↔ arg.toNat < 2 ^ k := by
  rw [← BitVec.toNat_inj, BitVec.toNat_ushiftRight, Nat.shiftRight_eq_div_pow]
  exact Nat.div_eq_zero_iff_lt (Nat.two_pow_pos k)

/-- A word is illegal exactly when its opcode is reserved or a reserved `arg` bit is one (R62, R63). -/
theorem illegal_opWord_iff (op : Byte) (arg : Word32) :
    Machine.Illegal (opWord op arg) ↔ (opcodeDefined op = true → arg >>> namedArgBits op ≠ 0) := by
  have hlegal : isLegal (opWord op arg) = true ↔ opcodeDefined op = true ∧ arg >>> namedArgBits op = 0 := by
    rw [isLegal_iff_fields, opField_opWord, opWord_toNat_mod, ushiftRight_eq_zero_iff]
  rw [Machine.Illegal, and_iff_left_of_imp decode_error_of_not_isLegal, ← Bool.not_eq_true, hlegal, not_and]

theorem illegal_of_opcode_reserved {op : Byte} (h : opcodeDefined op = false) (arg : Word32) :
    Machine.Illegal (op ++ arg) :=
  (illegal_opWord_iff op arg).mpr fun hdef => absurd hdef (by simp [h])

theorem illegal_of_reserved_bits {op : Byte} {arg : Word32} (h : arg >>> namedArgBits op ≠ 0) :
    Machine.Illegal (op ++ arg) :=
  (illegal_opWord_iff op arg).mpr fun _ => h

/-- The reserved opcodes as the ranges R62 prints. -/
theorem opcodeDefined_eq_false_iff_ranges (op : Byte) : opcodeDefined op = false ↔
    (op.toNat ≤ 0x0F ∨ (0x14 ≤ op.toNat ∧ op.toNat ≤ 0x17) ∨ (0x1C ≤ op.toNat ∧ op.toNat ≤ 0x1F) ∨
      (0x24 ≤ op.toNat ∧ op.toNat ≤ 0x27) ∨ 0x29 ≤ op.toNat) := by
  rw [← Bool.not_eq_true, opcodeDefined_iff_mem, opcodeMap_opcodes]
  simp only [List.mem_cons, List.not_mem_nil, or_false, ← BitVec.toNat_inj, BitVec.ofNat_eq_ofNat, BitVec.toNat_ofNat]
  omega

/-- A negative tick count has ones above bit 15 in its 32-bit pattern. -/
theorem ofInt32_ushiftRight_16_ne_zero {t : Int} (hlow : -32768 ≤ t) (hneg : t < 0) :
    BitVec.ofInt 32 t >>> 16 ≠ 0 := by
  rw [Ne, ushiftRight_eq_zero_iff, BitVec.toNat_ofInt]
  omega

/-- Settles O4: the ranges from the opcode column, the number by evaluation, and illegality for every `arg` from the
two fields of a legal word. -/
theorem reservedOpcodesAreIllegal : Obligations.ReservedOpcodesAreIllegal :=
  ⟨opcodeDefined_eq_false_iff_ranges, by decide +kernel, fun _ arg h => illegal_of_opcode_reserved h arg⟩

/-- Settles O5: each format's reserved bits are those above the ones it names. -/
theorem reservedArgBitsAreIllegal : Obligations.ReservedArgBitsAreIllegal := by
  refine ⟨?formatZ, ?formatB, ?formatHG1, ?formatG2, ?updBit8, ?signExtended⟩
  case formatZ =>
    rintro op arg (rfl | rfl) h
    all_goals exact illegal_of_reserved_bits (by simpa [namedArgBits] using h)
  case formatB =>
    rintro op arg (rfl | rfl | rfl) h
    all_goals exact illegal_of_reserved_bits h
  case formatHG1 =>
    rintro op arg (rfl | rfl | rfl | rfl | rfl | rfl) h
    all_goals exact illegal_of_reserved_bits h
  case formatG2 =>
    intro arg h
    exact illegal_of_reserved_bits h
  case updBit8 =>
    exact illegal_of_reserved_bits (op := 0x11) (arg := 0x100) (by decide)
  case signExtended =>
    rintro op t (rfl | rfl | rfl | rfl) hlow hneg
    all_goals exact illegal_of_reserved_bits (ofInt32_ushiftRight_16_ne_zero hlow hneg)

end Sys2Proof

/-! PROOF. The pseudo-operations (30_encoding.md R68): the host presents the operations of an expansion one by one, all
but the last answer OK, and `crc` goes through the bytes of the group. -/

namespace Sys2Proof.Machine

/-! ## Runs that answer OK -/

/-- Two runs, one after the other, are one run. -/
theorem core_run_add (m : Host.Core) (k l : Nat) (s t : m.State) (h : m.run k s = .next t) :
    m.run (k + l) s = m.run l t := by
  induction k generalizing s with
  | zero =>
    obtain rfl : s = t := by simpa [Host.Core.run] using h
    rw [Nat.zero_add]
  | succ k ih =>
    rw [Nat.succ_add]
    cases hstep : m.step s with
    | next u =>
      rw [core_run_succ m k s u hstep] at h
      rw [core_run_succ m (k + l) s u hstep, ih u h]
    | fault r => simp [Host.Core.run, hstep] at h
    | refused r => simp [Host.Core.run, hstep] at h

theorem RunsTo.trans {k l : Nat} {s t u : State} (hst : RunsTo k s t) (htu : RunsTo l t u) : RunsTo (k + l) s u :=
  (core_run_add core k l s t hst).trans htu

theorem runsTo_one {s t : State} (h : step s = .next t) : RunsTo 1 s t := run_succ 0 s t h

/-- The run of `k` steps from `s` to `t` delivers `k` responses, all with status OK. -/
structure AnswersOk (k : Nat) (s t : State) : Prop where
  runs : RunsTo k s t
  config : t.config = s.config
  responses : ∃ mid : List Response, t.responses = s.responses ++ mid ∧ mid.length = k ∧ ∀ r ∈ mid, r.status = .ok

theorem AnswersOk.refl (s : State) : AnswersOk 0 s s := ⟨rfl, rfl, [], by simp⟩

theorem AnswersOk.trans {k l : Nat} {s t u : State} (hst : AnswersOk k s t) (htu : AnswersOk l t u) :
    AnswersOk (k + l) s u := by
  obtain ⟨as, has, hlenA, hokA⟩ := hst.responses
  obtain ⟨bs, hbs, hlenB, hokB⟩ := htu.responses
  refine ⟨hst.runs.trans htu.runs, htu.config.trans hst.config, as ++ bs, ?_, ?_, ?_⟩
  · rw [hbs, has, List.append_assoc]
  · rw [List.length_append, hlenA, hlenB]
  · exact List.forall_mem_append.mpr ⟨hokA, hokB⟩

/-! ## Presenting operations -/

@[simp] theorem presentAll_nil : presentAll [] = [] := rfl

@[simp] theorem presentAll_cons (i : Instr) (is : List Instr) :
    presentAll (i :: is) = .word (encode i) :: presentAll is := rfl

/-- The step that takes the word of an operation runs that operation. -/
theorem step_of_presented {s : State} {i : Instr} {rest : List HostMove} (hmoves : s.moves = .word (encode i) :: rest)
    (hdecode : decode (encode i) = .ok i) : step s = exec i { s with moves := rest } := by
  simp only [step, takeMove, hmoves, hdecode]

/-- `CRC.SEED` as the next operation starts an empty group and answers OK. -/
theorem answersOk_crcSeed {s : State} {rest : List HostMove} (hmoves : s.moves = .word (encode .crcSeed) :: rest) :
    ∃ t, AnswersOk 1 s t ∧ t.moves = rest ∧ t.crc = s.config.crcInit := by
  have hstep := step_of_presented hmoves (decode_encode_of_encodesItsRow Laws.EncodesItsRow.crcSeed rfl)
  exact ⟨_, ⟨runsTo_one hstep, rfl, [⟨.ok, 0⟩], by simp⟩, rfl, rfl⟩

/-- `CRC.UPD` as the next operation takes one byte into `crc` and answers OK. -/
theorem answersOk_crcUpd {s : State} {d : Byte} {rest : List HostMove}
    (hmoves : s.moves = .word (encode (.crcUpd d)) :: rest) :
    ∃ t, AnswersOk 1 s t ∧ t.moves = rest ∧ t.crc = crc8Byte s.config.crcPoly s.crc d := by
  have hstep := step_of_presented hmoves (decode_encode_of_encodesItsRow (Laws.EncodesItsRow.crcUpd d) rfl)
  exact ⟨_, ⟨runsTo_one hstep, rfl, [⟨.ok, byteRes (crc8Byte s.config.crcPoly s.crc d)⟩], by simp⟩, rfl, rfl⟩

/-- The updates of a group of any length take its bytes into `crc` in order, each answering OK. -/
theorem answersOk_crcUpds (data : List Byte) {s : State} {rest : List HostMove}
    (hmoves : s.moves = presentAll (data.map .crcUpd) ++ rest) :
    ∃ t, AnswersOk data.length s t ∧ t.moves = rest ∧ t.crc = crc8Bytes s.config.crcPoly s.crc data := by
  induction data generalizing s with
  | nil => exact ⟨s, .refl s, hmoves, rfl⟩
  | cons d data ih =>
    obtain ⟨u, hsu, humoves, hucrc⟩ := answersOk_crcUpd hmoves
    obtain ⟨t, hut, htmoves, htcrc⟩ := ih humoves
    refine ⟨t, ?_, htmoves, ?_⟩
    · rw [List.length_cons, Nat.add_comm]
      exact hsu.trans hut
    · rw [htcrc, hsu.config, hucrc, crc8Bytes_cons]

/-- Seeding and streaming a group leaves its checksum in `crc`, with only OK answers (40_crc.md R83, R84). -/
theorem answersOk_seeded_group (data : List Byte) {s : State} {rest : List HostMove}
    (hmoves : s.moves = presentAll ([.crcSeed] ++ data.map .crcUpd) ++ rest) :
    ∃ t, AnswersOk (data.length + 1) s t ∧ t.moves = rest ∧ t.crc = crc8 s.config data := by
  obtain ⟨u, hsu, humoves, hucrc⟩ := answersOk_crcSeed hmoves
  obtain ⟨t, hut, htmoves, htcrc⟩ := answersOk_crcUpds data humoves
  refine ⟨t, ?_, htmoves, ?_⟩
  · rw [Nat.add_comm]
    exact hsu.trans hut
  · rw [htcrc, hsu.config, hucrc, crc8]

/-! ## The last operation of an expansion -/

/-- The response of `CRC.CHK e` when `crc` is `c` (40_crc.md R94). -/
def chkResponse (c e : Byte) : Response := if c = e then ⟨.ok, 0⟩ else ⟨.checksumError, crcPairRes e c⟩

theorem exec_crcGet (s : State) : exec .crcGet s = .next (deliver ⟨.ok, byteRes s.crc⟩ (seed s)) := rfl

theorem exec_crcChk (e : Byte) (s : State) : exec (.crcChk e) s = .next (deliver (chkResponse s.crc e) (seed s)) := by
  rw [exec, execCrcChk, chkResponse]
  by_cases h : s.crc = e
  · rw [if_pos ((crcMatches_iff _ _).mpr h), if_pos h]
    rfl
  · rw [if_neg (mt (crcMatches_iff _ _).mp h), if_neg h]
    rfl

/-- A seeded group ended by an operation that answers from `crc` and seeds it again: `CRC.GET` and `CRC.CHK` do so. -/
theorem seeded_group_then (data : List Byte) (i : Instr) (answer : Byte → Response) {s : State} {rest : List HostMove}
    (hmoves : s.moves = presentAll ([.crcSeed] ++ data.map .crcUpd ++ [i]) ++ rest)
    (hdecode : decode (encode i) = .ok i)
    (hexec : ∀ u, exec i u = .next (deliver (answer u.crc) (seed u))) :
    ∃ (t : State) (mid : List Response), RunsTo (data.length + 2) s t ∧ t.moves = rest ∧ t.config = s.config ∧
      t.crc = s.config.crcInit ∧ t.responses = s.responses ++ mid ++ [answer (crc8 s.config data)] ∧
      mid.length = data.length + 1 ∧ ∀ r ∈ mid, r.status = .ok := by
  have hsplit : s.moves = presentAll ([.crcSeed] ++ data.map .crcUpd) ++ .word (encode i) :: rest := by
    rw [hmoves]
    simp [presentAll]
  obtain ⟨u, hsu, humoves, hucrc⟩ := answersOk_seeded_group data hsplit
  obtain ⟨mid, hmid, hlen, hok⟩ := hsu.responses
  have hlast := (step_of_presented humoves hdecode).trans (hexec _)
  refine ⟨_, mid, hsu.runs.trans (runsTo_one hlast), rfl, hsu.config, ?_, ?_, hlen, hok⟩
  · simp [hsu.config]
  · simp [hmid, hucrc]

/-- Settles O51: the group is streamed by induction on its bytes, then `CRC.GET` or `CRC.CHK` answers from `crc`. -/
theorem pseudoOperationsCompute : Obligations.PseudoOperationsCompute := by
  refine ⟨fun _ => rfl, fun s data rest hmoves => ?crcCalc, fun s data e rest hmoves => ?crcVerify⟩
  case crcCalc =>
    exact seeded_group_then data .crcGet (fun c => ⟨.ok, byteRes c⟩) hmoves
      (decode_encode_of_encodesItsRow Laws.EncodesItsRow.crcGet rfl) exec_crcGet
  case crcVerify =>
    obtain ⟨t, mid, hrun, hrest, hconfig, hcrc, hresponses, hlen, hok⟩ :=
      seeded_group_then data (.crcChk e) (chkResponse · e) hmoves
        (decode_encode_of_encodesItsRow (Laws.EncodesItsRow.crcChk e) rfl) (exec_crcChk e)
    exact ⟨t, mid, _, hrun, hrest, hconfig, hcrc, hresponses, fun h => if_pos h, fun h => if_neg h, hlen, hok⟩

end Sys2Proof.Machine

/-! PROOF. The CRC computation (40_crc.md section 1): one bit step seen bit by bit, and, for an odd polynomial, that
no two registers and no two data bytes are taken to the same register. -/

namespace Sys2Proof.Machine

/-! ## One bit, one byte -/

theorem getLsbD_shiftLeft_one (c : Byte) {i : Nat} (hi : i < 8) :
    (c <<< 1).getLsbD i = (decide (0 < i) && c.getLsbD (i - 1)) := by
  cases i with
  | zero => simp
  | succ k =>
    rw [BitVec.getLsbD_shiftLeft]
    simp [hi]

/-- A bit step, bit by bit: the register shifted, XOR the polynomial under the feedback (40_crc.md R80). -/
theorem getLsbD_crc8Bit (poly c : Byte) (b : Bool) {i : Nat} (hi : i < 8) :
    (crc8Bit poly c b).getLsbD i =
      ((decide (0 < i) && c.getLsbD (i - 1)) ^^ ((c.getLsbD 7 ^^ b) && poly.getLsbD i)) := by
  rw [← getLsbD_shiftLeft_one c hi, crc8Bit]
  cases c.getLsbD 7 ^^ b with
  | false => simp
  | true => simp

/-- A byte is the fold of the bit step over its bits, most significant first (40_crc.md R81). -/
theorem crc8Byte_eq_foldl (poly c d : Byte) :
    crc8Byte poly c d = [7, 6, 5, 4, 3, 2, 1, 0].foldl (fun r k => crc8Bit poly r (d.getLsbD k)) c := rfl

/-- A byte that enters a register equal to it never sees a feedback: it shifts the register out to zero. -/
@[simp] theorem crc8Byte_self (poly d : Byte) : crc8Byte poly d d = 0 := by
  simp [crc8Byte, crc8Bit_eq, ← BitVec.shiftLeft_add]

/-- Settles O22. -/
theorem crcBitStep : Obligations.CrcBitStep :=
  ⟨fun poly c b _ hi => getLsbD_crc8Bit poly c b hi, by decide, by decide⟩

/-- Settles O23: the equations of the two functions, and the printed values by evaluation. -/
theorem crcByteAndListSteps : Obligations.CrcByteAndListSteps :=
  ⟨crc8Byte_eq_foldl, by decide, by decide, crc8Bytes_nil, crc8Bytes_cons⟩

/-! ## Injectivity for an odd polynomial

The CRC steps are linear, so two inputs that differ are told apart if no difference but zero is taken to zero. With bit
0 of the polynomial one, a feedback shows in bit 0, where the shift leaves a zero (93_implementation_defined.md U9). -/

theorem eq_zero_of_crc8Bit_false {poly c : Byte} (hodd : poly.getLsbD 0 = true) (h : crc8Bit poly c false = 0) :
    c = 0 := by
  have bits {i : Nat} (hi : i < 8) :
      ((decide (0 < i) && c.getLsbD (i - 1)) ^^ ((c.getLsbD 7 ^^ false) && poly.getLsbD i)) = false := by
    rw [← getLsbD_crc8Bit poly c false hi, h]
    exact BitVec.getLsbD_zero
  have htop : c.getLsbD 7 = false := by
    have hlow := bits (i := 0) (by omega)
    rw [hodd] at hlow
    simpa using hlow
  rw [htop] at bits
  refine BitVec.eq_of_getLsbD_eq fun i hi => ?_
  rcases (show i = 7 ∨ i + 1 < 8 by omega) with rfl | hnext
  · simpa using htop
  · simpa using bits hnext

theorem eq_zero_of_crc8Byte_zero {poly c : Byte} (hodd : poly.getLsbD 0 = true) (h : crc8Byte poly c 0 = 0) :
    c = 0 := by
  simp only [crc8Byte, BitVec.ofNat_eq_ofNat, BitVec.getLsbD_zero] at h
  iterate 8 replace h := eq_zero_of_crc8Bit_false hodd h
  exact h

/-- The register after a byte tells the registers before it apart. -/
theorem crc8Byte_register_injective {poly c c' d : Byte} (hodd : poly.getLsbD 0 = true)
    (h : crc8Byte poly c d = crc8Byte poly c' d) : c = c' := by
  rw [← BitVec.xor_eq_zero_iff, ← crc8Byte_xor, BitVec.xor_self] at h
  exact BitVec.xor_eq_zero_iff.mp (eq_zero_of_crc8Byte_zero hodd h)

/-- From a zero register, a byte does what it does as the register under a zero byte. -/
theorem crc8Byte_zero_register (poly d : Byte) : crc8Byte poly 0 d = crc8Byte poly d 0 := by
  calc crc8Byte poly 0 d
      = crc8Byte poly (d ^^^ d) (d ^^^ 0) := by simp
    _ = crc8Byte poly d d ^^^ crc8Byte poly d 0 := crc8Byte_xor _ _ _ _ _
    _ = crc8Byte poly d 0 := by simp

/-- The register after a byte tells the bytes apart. -/
theorem crc8Byte_data_injective {poly c a b : Byte} (hodd : poly.getLsbD 0 = true)
    (h : crc8Byte poly c a = crc8Byte poly c b) : a = b := by
  rw [← BitVec.xor_eq_zero_iff, ← crc8Byte_xor, BitVec.xor_self] at h
  exact BitVec.xor_eq_zero_iff.mp (eq_zero_of_crc8Byte_zero hodd ((crc8Byte_zero_register poly _).symm.trans h))

/-- The bytes that follow keep two different registers apart. -/
theorem crc8Bytes_register_injective {poly c c' : Byte} (hodd : poly.getLsbD 0 = true) (bs : List Byte)
    (h : crc8Bytes poly c bs = crc8Bytes poly c' bs) : c = c' := by
  induction bs generalizing c c' with
  | nil => exact h
  | cons b bs ih => exact crc8Byte_register_injective hodd (ih h)

/-- Two groups that differ in one byte have different checksums. -/
theorem crc8_ne_of_byte_ne {cfg : Config} (hodd : cfg.crcPoly.getLsbD 0 = true) (before after : List Byte) {a b : Byte}
    (hab : a ≠ b) : crc8 cfg (before ++ a :: after) ≠ crc8 cfg (before ++ b :: after) := by
  intro h
  simp only [crc8, crc8Bytes_append, crc8Bytes_cons] at h
  exact hab (crc8Byte_data_injective hodd (crc8Bytes_register_injective hodd after h))

/-! ## Single-bit errors -/

/-- Flipping one bit of a byte changes it. -/
theorem xor_oneBit_ne_self (b : Byte) {i : Nat} (hi : i < 8) : b ^^^ (1#8 <<< i) ≠ b := by
  intro h
  have hbit := congrArg (·.getLsbD i) h
  simp [hi] at hbit

theorem verify_eq_false_iff (cfg : Config) (data : List Byte) (e : Byte) :
    verify cfg data e = false ↔ crc8 cfg data ≠ e := by
  rw [← Bool.not_eq_true, verify_iff]

/-- Settles O27: a flipped bit changes a byte, and an odd polynomial keeps a changed byte visible to the end. -/
theorem singleBitErrorsAreDetected : Obligations.SingleBitErrorsAreDetected := by
  refine ⟨fun cfg data => (verify_iff _ _ _).mpr rfl, by decide, ?dataByte, ?checksumByte⟩
  case dataByte =>
    intro cfg before after b i hodd hi
    exact (verify_eq_false_iff _ _ _).mpr (crc8_ne_of_byte_ne hodd before after (xor_oneBit_ne_self b hi))
  case checksumByte =>
    intro cfg data i hi
    exact (verify_eq_false_iff _ _ _).mpr (xor_oneBit_ne_self _ hi).symm

end Sys2Proof.Machine

/-! PROOF. The CRC family (40_crc.md section 3): what each operation answers, and the words it is read from. The
streaming operations' `exec_crcGet` and `exec_crcChk` stand with the pseudo-operations. -/

namespace Sys2Proof.Machine

/-! ## What each operation answers -/

theorem exec_crcSeed (s : State) : exec .crcSeed s = .next (deliver ⟨.ok, 0⟩ (seed s)) := rfl

theorem exec_crcUpd (d : Byte) (s : State) :
    exec (.crcUpd d) s = .next (deliver ⟨.ok, byteRes (crc8Byte s.config.crcPoly s.crc d)⟩
      (writeCrc (crc8Byte s.config.crcPoly s.crc d) s)) := rfl

theorem exec_crcSeed_next_iff (s t : State) : exec .crcSeed s = .next t ↔ t = deliver ⟨.ok, 0⟩ (seed s) :=
  respond_next_iff _ _ _ _

theorem exec_crcGet_next_iff (s t : State) :
    exec .crcGet s = .next t ↔ t = deliver ⟨.ok, byteRes s.crc⟩ (seed s) := respond_next_iff _ _ _ _

theorem exec_crcChk_next_iff (e : Byte) (s t : State) :
    exec (.crcChk e) s = .next t ↔ t = deliver (chkResponse s.crc e) (seed s) := by
  simp [exec_crcChk, eq_comm]

theorem chkResponse_of_eq {c e : Byte} (h : c = e) : chkResponse c e = ⟨.ok, 0⟩ := if_pos h

theorem chkResponse_of_ne {c e : Byte} (h : c ≠ e) : chkResponse c e = ⟨.checksumError, crcPairRes e c⟩ := if_neg h

/-- `CRC.CHK` answers OK exactly on a match. -/
theorem chkResponse_status_ok_iff (c e : Byte) : (chkResponse c e).status = .ok ↔ c = e := by
  by_cases h : c = e
  · rw [chkResponse_of_eq h]
    simp [h]
  · rw [chkResponse_of_ne h]
    simp [h]

theorem exec_crcGen1 (d : Byte) (s : State) :
    exec (.crcGen1 d) s = .next (deliver ⟨.ok, group1Res d (crc8 s.config [d])⟩ s) := rfl

theorem exec_crcGen2 (w : Half) (s : State) :
    exec (.crcGen2 w) s = .next (deliver ⟨.ok, group2Res w (crc8 s.config (wireBytes w))⟩ s) := rfl

theorem exec_crcChk1_of_match {d e : Byte} {s : State} (h : crc8 s.config [d] = e) :
    exec (.crcChk1 d e) s = .next (deliver ⟨.ok, byteRes d⟩ s) := if_pos ((verify_iff _ _ _).mpr h)

theorem exec_crcChk1_of_mismatch {d e : Byte} {s : State} (h : crc8 s.config [d] ≠ e) :
    exec (.crcChk1 d e) s = .next (deliver ⟨.checksumError, crcPairRes e (crc8 s.config [d])⟩ s) :=
  if_neg (mt (verify_iff _ _ _).mp h)

theorem exec_crcChk2_of_match {d0 d1 e : Byte} {s : State} (h : crc8 s.config [d0, d1] = e) :
    exec (.crcChk2 d0 d1 e) s = .next (deliver ⟨.ok, payload2Res d0 d1⟩ s) := if_pos ((verify_iff _ _ _).mpr h)

theorem exec_crcChk2_of_mismatch {d0 d1 e : Byte} {s : State} (h : crc8 s.config [d0, d1] ≠ e) :
    exec (.crcChk2 d0 d1 e) s = .next (deliver ⟨.checksumError, crcPairRes e (crc8 s.config [d0, d1])⟩ s) :=
  if_neg (mt (verify_iff _ _ _).mp h)

/-! ## Bytes and words -/

/-- The bytes of a word in wire order: the more significant one first (20_memory.md R40). -/
theorem wireBytes_append (b0 b1 : Byte) : wireBytes (b0 ++ b1) = [b0, b1] := by
  simp only [wireBytes, List.cons.injEq, and_true]
  exact ⟨BitVec.extractLsb'_append_eq_left, BitVec.extractLsb'_append_eq_right⟩

theorem group2Res_append (b0 b1 c : Byte) : group2Res (b0 ++ b1) c = (0#8 ++ b0 ++ b1 ++ c : BitVec 32) := by
  have h : (0#8 ++ (b0 ++ b1) : BitVec 24) = 0#8 ++ b0 ++ b1 := BitVec.append_assoc.symm
  rw [group2Res, h]

theorem payload2Res_eq (d0 d1 : Byte) : payload2Res d0 d1 = (0#16 ++ d0 ++ d1 : BitVec 32) := by
  have h : (0#16 ++ (d0 ++ d1) : BitVec 32) = 0#16 ++ d0 ++ d1 := BitVec.append_assoc.symm
  rw [payload2Res, ← h]
  exact BitVec.setWidth_eq_append (by omega)

/-- A format G1 word written out field by field. -/
theorem formatG1_eq (op d e : Byte) : (op ++ 0#16 ++ d ++ e : OpWord) = opWord op (argG1 d e) := by
  have h : (op ++ 0#16 ++ d : BitVec 32) = op ++ (0#16 ++ d) := BitVec.append_assoc
  rw [h]
  exact BitVec.append_assoc

/-- A format G2 word written out field by field. -/
theorem formatG2_eq (op d0 d1 e : Byte) : (op ++ 0#8 ++ d0 ++ d1 ++ e : OpWord) = opWord op (argG2 d0 d1 e) := by
  have h0 : (op ++ 0#8 ++ d0 : BitVec 24) = op ++ (0#8 ++ d0) := BitVec.append_assoc
  have h1 : (op ++ (0#8 ++ d0) ++ d1 : BitVec 32) = op ++ (0#8 ++ d0 ++ d1) := BitVec.append_assoc
  rw [h0, h1]
  exact BitVec.append_assoc

/-- A word is decoded to the operation whose encoding it is, if that operation's row reads it back. -/
theorem decode_of_encode_eq {i : Instr} {w : OpWord} (hencode : encode i = w) (hrow : Laws.EncodesItsRow.Statement i)
    (hwf : i.wellFormed = true) : decode w = .ok i :=
  hencode ▸ decode_encode_of_encodesItsRow hrow hwf

/-! ## The streaming operations -/

/-- Settles O29. -/
theorem crcSeedWritesInit : Obligations.CrcSeedWritesInit := by
  refine ⟨by decide, exec_crcSeed, ?idempotent, ?afterReset⟩
  case idempotent =>
    intro s t u hst htu
    obtain rfl := (exec_crcSeed_next_iff _ _).mp hst
    obtain rfl := (exec_crcSeed_next_iff _ _).mp htu
    simp
  case afterReset =>
    intro t ht
    obtain rfl := (exec_crcSeed_next_iff _ _).mp ht
    rfl

/-- Settles O30. -/
theorem crcUpdFoldsByte : Obligations.CrcUpdFoldsByte := by
  refine ⟨fun d => ?words, fun s d => exec_crcUpd d s, by decide, by decide⟩
  case words =>
    exact decode_of_encode_eq (formatB_eq 0x11#8 d).symm (Laws.EncodesItsRow.crcUpd d) rfl

/-- Settles O31. -/
theorem crcGetReadsAndReseeds : Obligations.CrcGetReadsAndReseeds := by
  refine ⟨by decide, exec_crcGet, ?secondRead, ?afterReset⟩
  case secondRead =>
    intro s t u hst htu
    obtain rfl := (exec_crcGet_next_iff _ _).mp hst
    obtain rfl := (exec_crcGet_next_iff _ _).mp htu
    rfl
  case afterReset =>
    intro t ht
    obtain rfl := (exec_crcGet_next_iff _ _).mp ht
    rfl

/-- Settles O32. -/
theorem crcChkComparesAndReseeds : Obligations.CrcChkComparesAndReseeds := by
  refine ⟨fun e => ?words, fun s e h => ?onMatch, fun s e h => ?onMismatch, fun e t ht => ?afterReset, by decide⟩
  case words =>
    exact decode_of_encode_eq (formatB_eq 0x13#8 e).symm (Laws.EncodesItsRow.crcChk e) rfl
  case onMatch =>
    rw [exec_crcChk, chkResponse_of_eq h]
    rfl
  case onMismatch =>
    rw [exec_crcChk, chkResponse_of_ne h]
    rfl
  case afterReset =>
    obtain rfl := (exec_crcChk_next_iff _ _ _).mp ht
    have hresponses : (deliver (chkResponse State.reset.crc e) (seed State.reset)).responses =
        [chkResponse 0xFF e] := rfl
    rw [hresponses, eq_comm, ← chkResponse_status_ok_iff]
    simp

/-! ## The one-shot operations -/

/-- Settles O33. -/
theorem crcGen1BuildsGroup : Obligations.CrcGen1BuildsGroup := by
  refine ⟨fun d => ?words, fun s d => exec_crcGen1 d s, by decide, by decide, by decide⟩
  case words =>
    exact decode_of_encode_eq (formatB_eq 0x18#8 d).symm (Laws.EncodesItsRow.crcGen1 d) rfl

/-- Settles O34. -/
theorem crcGen2BuildsGroup : Obligations.CrcGen2BuildsGroup := by
  refine ⟨fun w => ?words, fun s b0 b1 => ?effect, by decide +kernel, by decide +kernel, by decide +kernel,
    by decide, by decide +kernel⟩
  case words =>
    exact decode_of_encode_eq (formatH_eq 0x19#8 w).symm (Laws.EncodesItsRow.crcGen2 w) rfl
  case effect =>
    rw [exec_crcGen2, wireBytes_append, group2Res_append]
    rfl

/-- Settles O35. -/
theorem crcChk1VerifiesGroup : Obligations.CrcChk1VerifiesGroup := by
  refine ⟨fun d e => ?words, fun s d e h => exec_crcChk1_of_match h, fun s d e h => exec_crcChk1_of_mismatch h,
    by decide⟩
  case words =>
    exact decode_of_encode_eq (formatG1_eq 0x1A#8 d e).symm (Laws.EncodesItsRow.crcChk1 d e) rfl

/-- Settles O36. -/
theorem crcChk2VerifiesGroup : Obligations.CrcChk2VerifiesGroup := by
  refine ⟨fun d0 d1 e => ?words, fun s d0 d1 e h => ?onMatch, fun s d0 d1 e h => exec_crcChk2_of_mismatch h,
    by decide +kernel, by decide +kernel⟩
  case words =>
    exact decode_of_encode_eq (formatG2_eq 0x1B#8 d0 d1 e).symm (Laws.EncodesItsRow.crcChk2 d0 d1 e) rfl
  case onMatch =>
    rw [exec_crcChk2_of_match h, payload2Res_eq]
    rfl

end Sys2Proof.Machine

/-! PROOF. Fresh seeding (40_crc.md R84): `CRC.GET` and `CRC.CHK` answer from `crc` and seed it, so the group that
follows starts from `CRC_INIT`; the one-shot operations never look at `crc`. -/

namespace Sys2Proof.Machine

/-! ## Groups that follow one another -/

/-- The operation is read back from its word, answers from `crc` and seeds it for the next group. -/
structure EndsGroup (i : Instr) (answer : Byte → Response) : Prop where
  decodes : decode (encode i) = .ok i
  answers : ∀ s, exec i s = .next (deliver (answer s.crc) (seed s))

theorem endsGroup_crcGet : EndsGroup .crcGet fun c => ⟨.ok, byteRes c⟩ :=
  ⟨decode_encode_of_encodesItsRow Laws.EncodesItsRow.crcGet rfl, exec_crcGet⟩

theorem endsGroup_crcChk (e : Byte) : EndsGroup (.crcChk e) (chkResponse · e) :=
  ⟨decode_encode_of_encodesItsRow (Laws.EncodesItsRow.crcChk e) rfl, exec_crcChk e⟩

/-- Streaming a group from whatever `crc` holds and ending it: the answer is the remainder, and `crc` is seeded. -/
theorem streamed_group_ends {i : Instr} {answer : Byte → Response} (hi : EndsGroup i answer) (data : List Byte)
    {s : State} {rest : List HostMove} (hmoves : s.moves = presentAll (data.map .crcUpd ++ [i]) ++ rest) :
    ∃ t, RunsTo (data.length + 1) s t ∧ t.moves = rest ∧ t.config = s.config ∧ t.crc = s.config.crcInit ∧
      t.responses.getLast? = some (answer (crc8Bytes s.config.crcPoly s.crc data)) := by
  have hsplit : s.moves = presentAll (data.map .crcUpd) ++ .word (encode i) :: rest := by
    rw [hmoves]
    simp [presentAll]
  obtain ⟨u, hsu, humoves, hucrc⟩ := answersOk_crcUpds data hsplit
  have hlast := (step_of_presented humoves hi.decodes).trans (hi.answers _)
  refine ⟨_, hsu.runs.trans (runsTo_one hlast), rfl, hsu.config, ?_, ?_⟩
  · simp [hsu.config]
  · simp [hucrc]

/-- Of two groups one after the other, the second's answer comes from its own checksum alone. -/
theorem second_group_freshly_seeded {i j : Instr} {answerI answerJ : Byte → Response} (hi : EndsGroup i answerI)
    (hj : EndsGroup j answerJ) (first second : List Byte) {s : State}
    (hmoves : s.moves = presentAll (first.map .crcUpd ++ [i] ++ second.map .crcUpd ++ [j])) :
    ∃ t, RunsTo (first.length + second.length + 2) s t ∧ t.crc = s.config.crcInit ∧
      t.responses.getLast? = some (answerJ (crc8 s.config second)) := by
  have hsplit : s.moves = presentAll (first.map .crcUpd ++ [i]) ++ presentAll (second.map .crcUpd ++ [j]) := by
    rw [hmoves]
    simp [presentAll]
  obtain ⟨u, hsu, humoves, huconfig, hucrc, -⟩ := streamed_group_ends hi first hsplit
  obtain ⟨t, hut, -, -, htcrc, htlast⟩ :=
    streamed_group_ends hj second (rest := []) (humoves.trans (List.append_nil _).symm)
  have hlen : first.length + 1 + (second.length + 1) = first.length + second.length + 2 := by omega
  refine ⟨t, hlen ▸ hsu.trans hut, htcrc.trans (congrArg _ huconfig), ?_⟩
  rw [htlast, huconfig, hucrc, crc8]

/-! ## One-shot operations -/

/-- A test that does not look at the state decides one response for all states. -/
theorem respond_or_raise_same_response (p : Prop) [Decidable p] (res eres : Word32) (e : ErrorKind) :
    ∃ r, ∀ s, (if p then respond .ok res s else raise e eres s) = .next (deliver r s) := by
  by_cases h : p
  · exact ⟨⟨.ok, res⟩, fun _ => if_pos h⟩
  · exact ⟨⟨e.status, eres⟩, fun _ => if_neg h⟩

/-- A one-shot operation delivers the response its argument and the configuration decide, and nothing else. -/
theorem exec_oneShot_same_response {i : Instr} (hi : i.streaming = false) (cfg : Config) :
    ∃ r, ∀ s, s.config = cfg → exec i s = .next (deliver r s) := by
  cases i with
  | crcSeed | crcUpd | crcGet | crcChk => cases hi
  | cvtVoc | cvtRh | cvtTc | cvtTf => exact ⟨_, fun _ _ => rfl⟩
  | crcGen1 d => exact ⟨⟨.ok, group1Res d (crc8 cfg [d])⟩, by rintro s rfl; exact exec_crcGen1 d s⟩
  | crcGen2 w => exact ⟨⟨.ok, group2Res w (crc8 cfg (wireBytes w))⟩, by rintro s rfl; exact exec_crcGen2 w s⟩
  | crcChk1 d e =>
    obtain ⟨r, hr⟩ := respond_or_raise_same_response (verify cfg [d] e) (byteRes d) (crcPairRes e (crc8 cfg [d]))
      .checksumError
    exact ⟨r, by rintro s rfl; exact hr s⟩
  | crcChk2 d0 d1 e =>
    obtain ⟨r, hr⟩ := respond_or_raise_same_response (verify cfg [d0, d1] e) (payload2Res d0 d1)
      (crcPairRes e (crc8 cfg [d0, d1])) .checksumError
    exact ⟨r, by rintro s rfl; exact hr s⟩
  | cvtToe x =>
    obtain ⟨r, hr⟩ := respond_or_raise_same_response (¬ offsetRefused cfg x) (ticksRes (toeTicks x)) 0 .encodingError
    -- here the error is the branch where the test succeeds
    exact ⟨r, by rintro s rfl; rw [exec, execCvtToe, ← ite_not]; exact hr s⟩

/-- Settles O54: the two groups as two runs that end with a seeded `crc`, and the one-shot operations from the
configuration they share. -/
theorem groupsAreFreshlySeeded : Obligations.GroupsAreFreshlySeeded := by
  refine ⟨fun s first second finish hfinish => ?streamed, fun s c i hi => ?oneShot⟩
  case streamed =>
    obtain ⟨answer, hends⟩ : ∃ answer, EndsGroup finish answer := by
      obtain rfl | ⟨e, rfl⟩ := hfinish
      · exact ⟨_, endsGroup_crcGet⟩
      · exact ⟨_, endsGroup_crcChk e⟩
    refine ⟨second_group_freshly_seeded hends endsGroup_crcGet first second, fun e hmoves => ?_⟩
    obtain ⟨t, hrun, hcrc, hlast⟩ := second_group_freshly_seeded hends (endsGroup_crcChk e) first second hmoves
    exact ⟨t, _, hrun, hcrc, hlast, chkResponse_of_eq, chkResponse_of_ne⟩
  case oneShot =>
    obtain ⟨r, hr⟩ := exec_oneShot_same_response hi s.config
    exact ⟨r, hr s rfl, hr { s with crc := c } rfl⟩

end Sys2Proof.Machine

/-! PROOF. The conversion family (41_convert.md): each multiply-shift datapath is exact to nearest because its constant
is close to the slope and its map has no tie; `rne_div65536` is the one integer near enough to a product; and what each
operation answers. -/

namespace Sys2Proof.Machine

/-! ## Nearest Q16.16 numbers -/

/-- The nearest Q16.16 number to a fraction with an even denominator, as one floor division. -/
theorem q16Nearest_div_two_mul (n : Int) {half : Nat} (hpos : 0 < half) :
    q16Nearest ((n : ℚ) / (2 * half)) = (2 ^ 16 * n + half) / (2 * half) := by
  have hfraction : (n : ℚ) / (2 * half) * 65536 + 1 / 2 =
      ((2 ^ 16 * n + half : Int) : ℚ) / ((2 * half : Nat) : ℚ) := by
    push_cast
    field_simp
  rw [q16Nearest, hfraction, Rat.floor_intCast_div_natCast]
  push_cast
  rfl

/-- An integer added before rounding is added after it. -/
theorem q16Nearest_add_intCast (r : ℚ) (m : Int) : q16Nearest (r + m) = q16Nearest r + m * 65536 := by
  have hshift : (r + m) * 65536 + 1 / 2 = r * 65536 + 1 / 2 + ((m * 65536 : Int) : ℚ) := by
    push_cast
    ring
  rw [q16Nearest, hshift, Int.floor_add_intCast, q16Nearest]

/-- The multiply-shift datapath is exact to nearest (R115). Over all ticks a constant this close to the slope
`num / (2 * half)` moves the result by less than the distance of a value that is no tie from the next tie. -/
theorem mulshift_eq_q16Nearest {t : Int} (hlow : -32768 ≤ t) (hhigh : t ≤ 32767) {k num half : Nat} (hpos : 0 < half)
    (hslope : |(k : Int) * (2 * half) - 2 ^ 40 * num| < 2 ^ 9)
    (hnotie : ¬ (2 * half : Int) ∣ 2 ^ 16 * (num * t) + half) :
    mulshift t k = q16Nearest (((num * t : Int) : ℚ) / (2 * half)) := by
  have herror : |t * (k * (2 * half) - 2 ^ 40 * num)| < 2 ^ 24 := by
    have ht : |t| ≤ 2 ^ 15 := abs_le.mpr ⟨by omega, by omega⟩
    rw [abs_mul]
    calc |t| * |(k : Int) * (2 * half) - 2 ^ 40 * num|
        ≤ 2 ^ 15 * |(k : Int) * (2 * half) - 2 ^ 40 * num| := mul_le_mul_of_nonneg_right ht (abs_nonneg _)
      _ < 2 ^ 15 * 2 ^ 9 := by linarith
      _ = 2 ^ 24 := by norm_num
  obtain ⟨herrorLow, herrorHigh⟩ := abs_lt.mp herror
  rw [q16Nearest_div_two_mul _ hpos, mulshift_eq]
  have hdpos : (0 : Int) < 2 * half := by omega
  have hsplit := Int.mul_ediv_add_emod (2 ^ 16 * (num * t) + half) (2 * half)
  have hrlt := Int.emod_lt_of_pos (2 ^ 16 * (num * t) + half) hdpos
  have hrpos := (Int.emod_pos_of_not_dvd hnotie).resolve_left hdpos.ne'
  generalize (2 ^ 16 * (num * t) + half) / (2 * half : Int) = q at hsplit ⊢
  generalize (2 ^ 16 * (num * t) + half) % (2 * half : Int) = r at hsplit hrlt hrpos
  -- the datapath's numerator is the exact one plus the error, and `r` leaves room for the error on both sides
  have hscaled : 2 * half * (t * k + 8388608) =
      2 ^ 24 * (2 * half * q + r) + t * (k * (2 * half) - 2 ^ 40 * num) := by
    rw [hsplit]
    ring
  have hrone : 1 ≤ r := hrpos
  have hrtop : r + 1 ≤ 2 * half := hrlt
  rw [Int.ediv_eq_iff_of_pos (by norm_num)]
  constructor
  · exact le_of_lt (lt_of_mul_lt_mul_left (by linarith) hdpos.le)
  · exact lt_of_mul_lt_mul_left (by linarith) hdpos.le

/-! ## The four maps -/

theorem vocExact_eq (t : Int) : vocExact t = (t : ℚ) / 10 := by norm_num [vocExact, vocDiv]

theorem rhExact_eq (t : Int) : rhExact t = (t : ℚ) / 100 := by norm_num [rhExact, rhDiv]

theorem tcExact_eq (t : Int) : tcExact t = (t : ℚ) / 200 := by norm_num [tcExact, tDiv]

/-- The slope of °F is nine fifths of that of °C (R111). -/
theorem tfExact_eq (t : Int) : tfExact t = 9 * (t : ℚ) / 1000 + 32 := by
  rw [tfExact, tcExact_eq]
  ring

section
variable {t : Int} (hlow : -32768 ≤ t) (hhigh : t ≤ 32767)
include hlow hhigh

theorem vocValue_eq_q16Nearest : vocValue t = q16Nearest (vocExact t) := by
  have hexact : vocExact t = (((1 : Nat) * t : Int) : ℚ) / (2 * (5 : Nat)) := by
    norm_num [vocExact_eq]
  rw [hexact]
  exact mulshift_eq_q16Nearest hlow hhigh (by decide) (by decide) (by omega)

theorem rhValue_eq_q16Nearest : rhValue t = q16Nearest (rhExact t) := by
  have hexact : rhExact t = (((1 : Nat) * t : Int) : ℚ) / (2 * (50 : Nat)) := by
    norm_num [rhExact_eq]
  rw [hexact]
  exact mulshift_eq_q16Nearest hlow hhigh (by decide) (by decide) (by omega)

theorem tcValue_eq_q16Nearest : tcValue t = q16Nearest (tcExact t) := by
  have hexact : tcExact t = (((1 : Nat) * t : Int) : ℚ) / (2 * (100 : Nat)) := by
    norm_num [tcExact_eq]
  rw [hexact]
  exact mulshift_eq_q16Nearest hlow hhigh (by decide) (by decide) (by omega)

/-- The offset of 32 degrees is a whole number of degrees, so it does not take part in the rounding. -/
theorem tfValue_eq_q16Nearest : tfValue t = q16Nearest (tfExact t) := by
  have hexact : tfExact t = (((9 : Nat) * t : Int) : ℚ) / (2 * (500 : Nat)) + (32 : Int) := by
    rw [tfExact_eq]
    push_cast
    ring
  rw [hexact, q16Nearest_add_intCast]
  exact congrArg (· + tfOffset) (mulshift_eq_q16Nearest hlow hhigh (by decide) (by decide) (by omega))

end

/-! ## Rounding to ticks -/

/-- The distance of `p / 65536` from an integer, in units of 1 / 131072. -/
theorem abs_div_65536_sub (p k : Int) :
    |(p : ℚ) / 65536 - k| = (|2 * p - 131072 * k| : Int) / (131072 : ℚ) := by
  have hunits : (p : ℚ) / 65536 - k = ((2 * p - 131072 * k : Int) : ℚ) / 131072 := by
    push_cast
    ring
  rw [hunits, abs_div, Int.cast_abs, abs_of_pos (by norm_num : (0 : ℚ) < 131072)]

/-- Only one integer is within a half of `p / 65536`, or is even and exactly a half away: the two at an exact half are
neighbours. -/
theorem rneDiv65536_eq_iff (p k : Int) :
    rneDiv65536 p = k ↔ |2 * p - 131072 * k| < 65536 ∨ (|2 * p - 131072 * k| = 65536 ∧ k % 2 = 0) := by
  obtain ⟨hnear, heven⟩ := rneDiv65536_spec p
  generalize rneDiv65536 p = q at hnear heven ⊢
  rw [abs_lt, abs_eq (by norm_num)]
  constructor
  · rintro rfl
    omega
  · rintro (hclose | ⟨htie, hk⟩)
    · omega
    · omega

/-- Settles O45: both distances counted in whole units of 1 / 131072. -/
theorem roundingTiesToEven : Obligations.RoundingTiesToEven := by
  refine ⟨fun p k => ?nearest, by decide, by decide, by decide, by decide, by decide⟩
  case nearest =>
    have hcloser : |(p : ℚ) / 65536 - k| < 1 / 2 ↔ |2 * p - 131072 * k| < 65536 := by
      rw [abs_div_65536_sub, div_lt_iff₀ (by norm_num), ← Int.cast_lt (R := ℚ)]
      norm_num
    have htie : |(p : ℚ) / 65536 - k| = 1 / 2 ↔ |2 * p - 131072 * k| = 65536 := by
      rw [abs_div_65536_sub, div_eq_iff (by norm_num), ← Int.cast_inj (α := ℚ)]
      norm_num
    rw [rneDiv65536_eq_iff, hcloser, htie]

/-! ## Words and answers -/

theorem ticksInRange_toInt (p : Half) : ticksInRange p.toInt = true := by
  have hlow := BitVec.le_toInt p
  have hhigh := BitVec.toInt_lt (x := p)
  simp only [ticksInRange, decide_eq_true_eq]
  omega

theorem offsetInRange_toInt (p : Word32) : offsetInRange p.toInt = true := by
  have hlow := BitVec.le_toInt p
  have hhigh := BitVec.toInt_lt (x := p)
  simp only [offsetInRange, decide_eq_true_eq]
  omega

/-- The word of a tick operand holds the operand's 16-bit pattern (30_encoding.md R58). -/
theorem opWord_argT_toInt (op : Byte) (p : Half) : opWord op (argT p.toInt) = (op ++ 0#16 ++ p : OpWord) := by
  rw [argT, BitVec.ofInt_toInt]
  exact (formatH_eq op p).symm

/-- The word of an offset holds the offset's 32-bit pattern (30_encoding.md R58). -/
theorem opWord_argW_toInt (op : Byte) (p : Word32) : opWord op (argW p.toInt) = (op ++ p : OpWord) := by
  rw [argW, BitVec.ofInt_toInt, opWord]

theorem exec_cvtVoc (t : Int) (s : State) :
    exec (.cvtVoc t) s = .next (deliver ⟨.ok, q16Res (vocValue t)⟩ s) := rfl

theorem exec_cvtRh (t : Int) (s : State) :
    exec (.cvtRh t) s = .next (deliver ⟨.ok, q16Res (rhValue t)⟩ s) := rfl

theorem exec_cvtTc (t : Int) (s : State) :
    exec (.cvtTc t) s = .next (deliver ⟨.ok, q16Res (tcValue t)⟩ s) := rfl

theorem exec_cvtTf (t : Int) (s : State) :
    exec (.cvtTf t) s = .next (deliver ⟨.ok, q16Res (tfValue t)⟩ s) := rfl

theorem exec_cvtToe_of_outside {x : Int} {s : State} (h : x > s.config.toffLimit ∨ x < -s.config.toffLimit) :
    exec (.cvtToe x) s = .next (deliver ⟨.encodingError, 0⟩ s) := if_pos ((offsetRefused_iff _ _).mpr h)

theorem exec_cvtToe_of_inside {x : Int} {s : State} (hlow : -s.config.toffLimit ≤ x) (hhigh : x ≤ s.config.toffLimit) :
    exec (.cvtToe x) s = .next (deliver ⟨.ok, ticksRes (toeTicks x)⟩ s) :=
  if_neg (mt (offsetRefused_iff _ _).mp (by omega))

/-! ## The operations -/

/-- Settles O37. -/
theorem cvtVocGivesNearest : Obligations.CvtVocGivesNearest := by
  refine ⟨fun p => ?words, fun s t hlow hhigh => ⟨exec_cvtVoc t s, ?nearest⟩, by decide⟩
  case words =>
    exact decode_of_encode_eq (opWord_argT_toInt 0x20#8 p) (Laws.EncodesItsRow.cvtVoc _) (ticksInRange_toInt p)
  case nearest => exact vocExact_eq t ▸ vocValue_eq_q16Nearest hlow hhigh

/-- Settles O38. -/
theorem cvtRhGivesNearest : Obligations.CvtRhGivesNearest := by
  refine ⟨fun p => ?words, fun s t hlow hhigh => ⟨exec_cvtRh t s, ?nearest⟩, by decide⟩
  case words =>
    exact decode_of_encode_eq (opWord_argT_toInt 0x21#8 p) (Laws.EncodesItsRow.cvtRh _) (ticksInRange_toInt p)
  case nearest => exact rhExact_eq t ▸ rhValue_eq_q16Nearest hlow hhigh

/-- Settles O39. -/
theorem cvtTcGivesNearest : Obligations.CvtTcGivesNearest := by
  refine ⟨fun p => ?words, fun s t hlow hhigh => ⟨exec_cvtTc t s, ?nearest⟩, by decide⟩
  case words =>
    exact decode_of_encode_eq (opWord_argT_toInt 0x22#8 p) (Laws.EncodesItsRow.cvtTc _) (ticksInRange_toInt p)
  case nearest => exact tcExact_eq t ▸ tcValue_eq_q16Nearest hlow hhigh

/-- Settles O40. -/
theorem cvtTfGivesNearest : Obligations.CvtTfGivesNearest := by
  refine ⟨fun p => ?words, fun s t hlow hhigh => ⟨exec_cvtTf t s, ?nearest⟩, by decide⟩
  case words =>
    exact decode_of_encode_eq (opWord_argT_toInt 0x23#8 p) (Laws.EncodesItsRow.cvtTf _) (ticksInRange_toInt p)
  case nearest => exact tfExact_eq t ▸ tfValue_eq_q16Nearest hlow hhigh

/-- Settles O41: the ticks' ranges from what `rne_div65536` can answer on a product that is in range. -/
theorem cvtToeEncodesOffset : Obligations.CvtToeEncodesOffset := by
  refine ⟨fun p => ?words, fun s x h => exec_cvtToe_of_outside h,
    fun s x hlow hhigh => ⟨exec_cvtToe_of_inside hlow hhigh, ?width⟩, fun x hlow hhigh => ?range, by decide, by decide,
    by decide, by decide, by decide, fun x hpos hlt => ?below⟩
  case words =>
    exact decode_of_encode_eq (opWord_argW_toInt 0x28#8 p) (Laws.EncodesItsRow.cvtToe _) (offsetInRange_toInt p)
  case width =>
    have hlimit := s.config.toffLimitX.isLt
    obtain ⟨hnear, -⟩ := rneDiv65536_spec (x * 200)
    omega
  case range =>
    obtain ⟨hnear, -⟩ := rneDiv65536_spec (x * 200)
    omega
  case below =>
    obtain ⟨hnear, -⟩ := rneDiv65536_spec (x * 200)
    omega

end Sys2Proof.Machine

/-! PROOF. Statuses and their causes (60_exceptions.md): the errors an operation can raise, that it answers OK when it
raises none, and the answer to a word that does not decode. -/

namespace Sys2Proof.Machine

/-! ## The codes of the statuses -/

/-- The status whose code is `c`; the codes 4 to 7, which no status has, are read as 3. -/
def Status.ofCode (c : BitVec 3) : Status :=
  if c = 0 then .ok else if c = 1 then .checksumError else if c = 2 then .encodingError else .illegalOperation

theorem Status.ofCode_code : Function.LeftInverse Status.ofCode Status.code := by
  intro st
  cases st <;> rfl

theorem Status.code_ofCode : ∀ c : BitVec 3, c.toNat ≤ 3 → (Status.ofCode c).code = c := by decide

theorem Status.code_toNat_le (st : Status) : st.code.toNat ≤ 3 := by
  cases st <;> decide

/-- The 3-bit codes of the statuses are exactly 0 to 3. -/
theorem Status.exists_code_eq_iff (c : BitVec 3) : (∃ st : Status, st.code = c) ↔ c.toNat ≤ 3 := by
  constructor
  · rintro ⟨st, rfl⟩
    exact st.code_toNat_le
  · exact fun h => ⟨.ofCode c, Status.code_ofCode c h⟩

/-! ## The errors an operation raises -/

/-- The error responses of the operations (60_exceptions.md R140 to R142), when the configuration is `cfg` and the
register holds `c`. -/
inductive Raises (cfg : Config) (c : Byte) : Instr → Response → Prop
  | crcChk {e : Byte} (h : c ≠ e) : Raises cfg c (.crcChk e) ⟨.checksumError, crcPairRes e c⟩
  | crcChk1 {d e : Byte} (h : crc8 cfg [d] ≠ e) :
      Raises cfg c (.crcChk1 d e) ⟨.checksumError, crcPairRes e (crc8 cfg [d])⟩
  | crcChk2 {d0 d1 e : Byte} (h : crc8 cfg [d0, d1] ≠ e) :
      Raises cfg c (.crcChk2 d0 d1 e) ⟨.checksumError, crcPairRes e (crc8 cfg [d0, d1])⟩
  | cvtToe {x : Int} (h : x > cfg.toffLimit ∨ x < -cfg.toffLimit) : Raises cfg c (.cvtToe x) ⟨.encodingError, 0⟩

/-- `r` is OK or an error of the operation, and it is the error wherever the operation has one. -/
structure AnswersOrRaises (cfg : Config) (c : Byte) (i : Instr) (r : Response) : Prop where
  ok_or_raises : r.status = .ok ∨ Raises cfg c i r
  eq_of_raises : ∀ {r'}, Raises cfg c i r' → r = r'

section
variable {cfg : Config} {c : Byte} {i : Instr} {r : Response}

/-- An operation has at most one error response in a state. -/
theorem Raises.unique {r' : Response} (h : Raises cfg c i r) (h' : Raises cfg c i r') : r = r' := by
  cases h <;> cases h' <;> rfl

theorem Raises.answers (h : Raises cfg c i r) : AnswersOrRaises cfg c i r := ⟨.inr h, h.unique⟩

theorem answersOrRaises_of_ok (hok : r.status = .ok) (hnone : ∀ r', ¬ Raises cfg c i r') :
    AnswersOrRaises cfg c i r :=
  ⟨.inl hok, fun h => absurd h (hnone _)⟩

/-- A status other than OK is that of an error the operation raised. -/
theorem AnswersOrRaises.raises_of_status {st : Status} (h : AnswersOrRaises cfg c i r) (hst : r.status = st)
    (hne : st ≠ .ok) : Raises cfg c i r :=
  h.ok_or_raises.resolve_left (hst ▸ hne)

/-- No operation raises `IllegalOperation`. -/
theorem AnswersOrRaises.status_ne_illegalOperation (h : AnswersOrRaises cfg c i r) :
    r.status ≠ .illegalOperation := by
  intro hst
  cases h.raises_of_status hst (by decide) <;> cases hst

/-- `EncodingError` is raised by `CVT.TOE` outside the limit (R142), and by nothing else. -/
theorem AnswersOrRaises.encodingError_iff (h : AnswersOrRaises cfg c i r) :
    r.status = .encodingError ↔ ∃ x, i = .cvtToe x ∧ (x > cfg.toffLimit ∨ x < -cfg.toffLimit) := by
  constructor
  · intro hst
    cases h.raises_of_status hst (by decide) with
    | cvtToe hout => exact ⟨_, rfl, hout⟩
    | crcChk | crcChk1 | crcChk2 => cases hst
  · rintro ⟨x, rfl, hout⟩
    rw [h.eq_of_raises (.cvtToe hout)]

/-- `ChecksumError` is raised by the three checking operations on a mismatch (R141), and by nothing else. -/
theorem AnswersOrRaises.checksumError_iff (h : AnswersOrRaises cfg c i r) :
    r.status = .checksumError ↔
      (∃ e, i = .crcChk e ∧ c ≠ e) ∨ (∃ d e, i = .crcChk1 d e ∧ crc8 cfg [d] ≠ e) ∨
        (∃ d0 d1 e, i = .crcChk2 d0 d1 e ∧ crc8 cfg [d0, d1] ≠ e) := by
  constructor
  · intro hst
    cases h.raises_of_status hst (by decide) with
    | crcChk hne => exact .inl ⟨_, rfl, hne⟩
    | crcChk1 hne => exact .inr (.inl ⟨_, _, rfl, hne⟩)
    | crcChk2 hne => exact .inr (.inr ⟨_, _, _, rfl, hne⟩)
    | cvtToe => cases hst
  · rintro (⟨e, rfl, hne⟩ | ⟨d, e, rfl, hne⟩ | ⟨d0, d1, e, rfl, hne⟩)
    · rw [h.eq_of_raises (.crcChk hne)]
    · rw [h.eq_of_raises (.crcChk1 hne)]
    · rw [h.eq_of_raises (.crcChk2 hne)]

/-- An `EncodingError` holds no data (R140). -/
theorem AnswersOrRaises.res_of_encodingError (h : AnswersOrRaises cfg c i r) (hst : r.status = .encodingError) :
    r.res = 0 := by
  obtain ⟨x, rfl, hout⟩ := h.encodingError_iff.mp hst
  rw [h.eq_of_raises (.cvtToe hout)]

end

/-- Every operation completes with one response: its error if it has one in this state, else OK. -/
theorem exec_answers (i : Instr) (s : State) :
    ∃ t r, exec i s = .next t ∧ t.responses = s.responses ++ [r] ∧ AnswersOrRaises s.config s.crc i r := by
  cases i with
  | crcSeed | crcUpd | crcGet | crcGen1 | crcGen2 | cvtVoc | cvtRh | cvtTc | cvtTf =>
    exact ⟨_, _, rfl, rfl, answersOrRaises_of_ok rfl nofun⟩
  | crcChk e =>
    refine ⟨_, _, exec_crcChk e s, rfl, ?_⟩
    by_cases h : s.crc = e
    · exact chkResponse_of_eq h ▸ answersOrRaises_of_ok rfl fun | _, .crcChk hne => hne h
    · exact chkResponse_of_ne h ▸ (Raises.crcChk h).answers
  | crcChk1 d e =>
    by_cases h : crc8 s.config [d] = e
    · exact ⟨_, _, exec_crcChk1_of_match h, rfl, answersOrRaises_of_ok rfl fun | _, .crcChk1 hne => hne h⟩
    · exact ⟨_, _, exec_crcChk1_of_mismatch h, rfl, (Raises.crcChk1 h).answers⟩
  | crcChk2 d0 d1 e =>
    by_cases h : crc8 s.config [d0, d1] = e
    · exact ⟨_, _, exec_crcChk2_of_match h, rfl, answersOrRaises_of_ok rfl fun | _, .crcChk2 hne => hne h⟩
    · exact ⟨_, _, exec_crcChk2_of_mismatch h, rfl, (Raises.crcChk2 h).answers⟩
  | cvtToe x =>
    by_cases h : x > s.config.toffLimit ∨ x < -s.config.toffLimit
    · exact ⟨_, _, exec_cvtToe_of_outside h, rfl, (Raises.cvtToe h).answers⟩
    · exact ⟨_, _, exec_cvtToe_of_inside (by omega) (by omega), rfl,
        answersOrRaises_of_ok rfl fun | _, .cvtToe hout => h hout⟩

/-- An operation with no error in this state answers OK. -/
theorem exec_answers_ok {i : Instr} {s : State} (hnone : ∀ r, ¬ Raises s.config s.crc i r) :
    ∃ (u : State) (res : Word32), exec i s = .next u ∧ u.responses = s.responses ++ [⟨.ok, res⟩] := by
  obtain ⟨u, ⟨st, res⟩, hexec, hresponses, hanswer⟩ := exec_answers i s
  obtain rfl : st = .ok := hanswer.ok_or_raises.resolve_right (hnone _)
  exact ⟨u, res, hexec, hresponses⟩

/-! ## The step that takes a word -/

/-- A word is legal exactly when the decoder reads an operation from it (R61). -/
theorem isLegal_iff_decode_ok (w : OpWord) : isLegal w = true ↔ ∃ i, decode w = .ok i := by
  constructor
  · intro h
    obtain ⟨r, hr, hsel⟩ := List.any_eq_true.mp h
    exact ⟨_, decode_of_selects hr hsel⟩
  · rintro ⟨i, hi⟩
    by_contra h
    obtain ⟨e, he⟩ := decode_error_of_not_isLegal (Bool.eq_false_of_not_eq_true h)
    simp [hi] at he

theorem isLegal_eq_false_of_decode_error {w : OpWord} {e : DecodeError} (h : decode w = .error e) :
    isLegal w = false := by
  rw [← Bool.not_eq_true, isLegal_iff_decode_ok]
  simp [h]

/-- The step that takes a legal word runs the operation it decodes to. -/
theorem step_of_decode_ok {s : State} {w : OpWord} {rest : List HostMove} {i : Instr}
    (hmoves : s.moves = .word w :: rest) (hdecode : decode w = .ok i) :
    step s = exec i { s with moves := rest } := by
  simp only [step, takeMove, hmoves, hdecode]

/-- The step that takes an illegal word delivers `IllegalOperation` with `res` = 0 and changes nothing else (R143). -/
theorem step_of_decode_error {s : State} {w : OpWord} {rest : List HostMove} {e : DecodeError}
    (hmoves : s.moves = .word w :: rest) (hdecode : decode w = .error e) :
    step s = .next (deliver ⟨.illegalOperation, 0⟩ { s with moves := rest }) := by
  have hstep : step s = raiseIllegal { s with moves := rest } := by
    simp only [step, takeMove, hmoves, hdecode]
  exact hstep.trans ((raiseIllegal_next_iff _ _).mpr rfl)

/-! ## The statements -/

/-- Settles O10. -/
theorem illegalWordChangesNothing : Obligations.IllegalWordChangesNothing :=
  ⟨rfl, fun _ _ _ _ => step_of_decode_error⟩

/-- Settles O55: none of the nine operations has an error to raise. -/
theorem nineOperationsCannotFail : Obligations.NineOperationsCannotFail := by
  intro s d w t i hi
  apply exec_answers_ok
  simp only [List.mem_cons, List.not_mem_nil, or_false] at hi
  rcases hi with rfl | rfl | rfl | rfl | rfl | rfl | rfl | rfl | rfl
  all_goals nofun

/-- Settles O11: a word that does not decode is answered `IllegalOperation`, and the answer to a legal word is read off
the errors its operation can raise. -/
theorem statusesAndTheirCauses : Obligations.StatusesAndTheirCauses := by
  refine ⟨⟨rfl, rfl, rfl, rfl⟩, Status.exists_code_eq_iff, fun _ _ h => Status.ofCode_code.injective h,
    fun s w rest hmoves => ?_⟩
  cases hdecode : decode w with
  | error e =>
    exact ⟨_, ⟨.illegalOperation, 0⟩, step_of_decode_error hmoves hdecode, rfl,
      by simp [isLegal_eq_false_of_decode_error hdecode]⟩
  | ok i =>
    obtain ⟨t, r, hexec, hresponses, hanswer⟩ := exec_answers i { s with moves := rest }
    have hlegal : isLegal w = true := (isLegal_iff_decode_ok w).mpr ⟨i, hdecode⟩
    have hnotIllegal := hanswer.status_ne_illegalOperation
    simp only [Except.ok.injEq]
    refine ⟨t, r, (step_of_decode_ok hmoves hdecode).trans hexec, hresponses, by simp [hnotIllegal, hlegal],
      hanswer.encodingError_iff, hanswer.checksumError_iff, fun h => absurd h hnotIllegal,
      hanswer.res_of_encodingError, ?crcChk, ?crcChk1, ?crcChk2⟩
    case crcChk =>
      rintro e rfl hne
      exact congrArg Response.res (hanswer.eq_of_raises (.crcChk hne))
    case crcChk1 =>
      rintro d e rfl hne
      exact congrArg Response.res (hanswer.eq_of_raises (.crcChk1 hne))
    case crcChk2 =>
      rintro d0 d1 e rfl hne
      exact congrArg Response.res (hanswer.eq_of_raises (.crcChk2 hne))

end Sys2Proof.Machine

/-! PROOF. The encoding as a whole (30_encoding.md R57 to R66): each row's fields hold all of the words it selects, so
decoding and encoding undo each other, and the rows are disjoint, so the legal words are counted row by row. -/

namespace Sys2Proof

/-! ## Encoding, then decoding -/

/-- Every operation is read back by the row of its mnemonic (R60). -/
theorem encodesItsRow (i : Instr) : Laws.EncodesItsRow.Statement i := by
  cases i with
  | crcSeed => exact Laws.EncodesItsRow.crcSeed
  | crcUpd d => exact Laws.EncodesItsRow.crcUpd d
  | crcGet => exact Laws.EncodesItsRow.crcGet
  | crcChk e => exact Laws.EncodesItsRow.crcChk e
  | crcGen1 d => exact Laws.EncodesItsRow.crcGen1 d
  | crcGen2 w => exact Laws.EncodesItsRow.crcGen2 w
  | crcChk1 d e => exact Laws.EncodesItsRow.crcChk1 d e
  | crcChk2 d0 d1 e => exact Laws.EncodesItsRow.crcChk2 d0 d1 e
  | cvtVoc t => exact Laws.EncodesItsRow.cvtVoc t
  | cvtRh t => exact Laws.EncodesItsRow.cvtRh t
  | cvtTc t => exact Laws.EncodesItsRow.cvtTc t
  | cvtTf t => exact Laws.EncodesItsRow.cvtTf t
  | cvtToe x => exact Laws.EncodesItsRow.cvtToe x

/-- Settles O1. -/
theorem decodeOfEncode : Obligations.DecodeOfEncode :=
  fun i hwf => decode_encode_of_encodesItsRow (encodesItsRow i) hwf

/-! ## Decoding, then encoding -/

/-- A word is given by its two fields (R55). -/
theorem opWord_eq_of_fields {op : Byte} {arg : Word32} {w : OpWord} (hop : op = opField w)
    (harg : arg.toNat = w.toNat % 2 ^ 32) : opWord op arg = w := by
  subst hop
  apply BitVec.eq_of_toNat_eq
  have hw := w.isLt
  rw [opWord_toNat, opField_toNat, harg]
  omega

/-! The bytes of formats G1 and G2, where R57 puts them. -/

section
variable (d d0 d1 e : Byte)

@[simp] theorem extractLsb'_argG1_16 : (argG1 d e).extractLsb' 16 16 = 0#16 := by
  have hd := d.isLt
  have he := e.isLt
  apply BitVec.eq_of_toNat_eq
  rw [BitVec.extractLsb'_toNat, argG1_toNat, Nat.shiftRight_eq_div_pow, BitVec.toNat_ofNat]
  omega

@[simp] theorem extractLsb'_argG1_8 : (argG1 d e).extractLsb' 8 8 = d := by
  have hd := d.isLt
  have he := e.isLt
  apply BitVec.eq_of_toNat_eq
  rw [BitVec.extractLsb'_toNat, argG1_toNat, Nat.shiftRight_eq_div_pow]
  omega

@[simp] theorem extractLsb'_argG1_0 : (argG1 d e).extractLsb' 0 8 = e := BitVec.extractLsb'_append_eq_right

@[simp] theorem extractLsb'_argG2_16 : (argG2 d0 d1 e).extractLsb' 16 8 = d0 := by
  have hd0 := d0.isLt
  have hd1 := d1.isLt
  have he := e.isLt
  apply BitVec.eq_of_toNat_eq
  rw [BitVec.extractLsb'_toNat, argG2_toNat, Nat.shiftRight_eq_div_pow]
  omega

@[simp] theorem extractLsb'_argG2_8 : (argG2 d0 d1 e).extractLsb' 8 8 = d1 := by
  have hd1 := d1.isLt
  have he := e.isLt
  apply BitVec.eq_of_toNat_eq
  rw [BitVec.extractLsb'_toNat, argG2_toNat, Nat.shiftRight_eq_div_pow]
  omega

@[simp] theorem extractLsb'_argG2_0 : (argG2 d0 d1 e).extractLsb' 0 8 = e := BitVec.extractLsb'_append_eq_right

end

/-! The `arg` of a word whose reserved bits are zero is put together again from the operands each format reads (R57). -/

theorem argB_argByte0_toNat {w : OpWord} (h : w.toNat % 2 ^ 32 < 2 ^ 8) :
    (argB (argByte0 w)).toNat = w.toNat % 2 ^ 32 := by
  rw [argB_toNat, argByte0_toNat]
  omega

theorem argH_argHalf_toNat {w : OpWord} (h : w.toNat % 2 ^ 32 < 2 ^ 16) :
    (argH (argHalf w)).toNat = w.toNat % 2 ^ 32 := by
  rw [argH_toNat, argHalf_toNat]
  omega

theorem argT_argTicks_toNat {w : OpWord} (h : w.toNat % 2 ^ 32 < 2 ^ 16) :
    (argT (argTicks w)).toNat = w.toNat % 2 ^ 32 := by
  rw [argT, argTicks, BitVec.ofInt_toInt, argH_argHalf_toNat h]

theorem argG1_argBytes_toNat {w : OpWord} (h : w.toNat % 2 ^ 32 < 2 ^ 16) :
    (argG1 (argByte1 w) (argByte0 w)).toNat = w.toNat % 2 ^ 32 := by
  rw [argG1_toNat, argByte1_toNat, argByte0_toNat]
  omega

theorem argG2_argBytes_toNat {w : OpWord} (h : w.toNat % 2 ^ 32 < 2 ^ 24) :
    (argG2 (argByte2 w) (argByte1 w) (argByte0 w)).toNat = w.toNat % 2 ^ 32 := by
  rw [argG2_toNat, argByte2_toNat, argByte1_toNat, argByte0_toNat]
  omega

theorem argW_argOffset_toNat (w : OpWord) : (argW (argOffset w)).toNat = w.toNat % 2 ^ 32 := by
  rw [argW, argOffset, BitVec.ofInt_toInt, BitVec.extractLsb'_toNat, Nat.shiftRight_zero]

/-- The operands a row reads are in range, and with the row's opcode they are the whole word: the bits they leave out
are those the row asks to be zero (R63). -/
theorem operands_of_selects {r : Row} {w : OpWord} (hr : r ∈ opcodeMap) (hsel : r.selects w = true) :
    (r.operands w).wellFormed = true ∧ encode (r.operands w) = w := by
  obtain ⟨hop, harg⟩ := (selects_iff_fields hr w).mp hsel
  rw [← hop] at harg
  simp only [opcodeMap, streamRows, groupRows, convertRows, List.cons_append, List.nil_append, List.mem_cons,
    List.not_mem_nil, or_false] at hr
  -- one case per row, in table order
  rcases hr with rfl | rfl | rfl | rfl | rfl | rfl | rfl | rfl | rfl | rfl | rfl | rfl | rfl
  · exact ⟨rfl, opWord_eq_of_fields hop (Nat.lt_one_iff.mp harg).symm⟩
  · exact ⟨rfl, opWord_eq_of_fields hop (argB_argByte0_toNat harg)⟩
  · exact ⟨rfl, opWord_eq_of_fields hop (Nat.lt_one_iff.mp harg).symm⟩
  · exact ⟨rfl, opWord_eq_of_fields hop (argB_argByte0_toNat harg)⟩
  · exact ⟨rfl, opWord_eq_of_fields hop (argB_argByte0_toNat harg)⟩
  · exact ⟨rfl, opWord_eq_of_fields hop (argH_argHalf_toNat harg)⟩
  · exact ⟨rfl, opWord_eq_of_fields hop (argG1_argBytes_toNat harg)⟩
  · exact ⟨rfl, opWord_eq_of_fields hop (argG2_argBytes_toNat harg)⟩
  · exact ⟨Machine.ticksInRange_toInt _, opWord_eq_of_fields hop (argT_argTicks_toNat harg)⟩
  · exact ⟨Machine.ticksInRange_toInt _, opWord_eq_of_fields hop (argT_argTicks_toNat harg)⟩
  · exact ⟨Machine.ticksInRange_toInt _, opWord_eq_of_fields hop (argT_argTicks_toNat harg)⟩
  · exact ⟨Machine.ticksInRange_toInt _, opWord_eq_of_fields hop (argT_argTicks_toNat harg)⟩
  · exact ⟨Machine.offsetInRange_toInt _, opWord_eq_of_fields hop (argW_argOffset_toNat w)⟩

/-- What the decoder reads from a word, it reads by a row the word selects (R61). -/
theorem exists_row_of_decode_ok {w : OpWord} {i : Instr} (h : decode w = .ok i) :
    ∃ r ∈ opcodeMap, r.selects w = true ∧ r.operands w = i := by
  obtain ⟨r, hr, hsel⟩ := List.any_eq_true.mp ((Machine.isLegal_iff_decode_ok w).mpr ⟨i, h⟩)
  exact ⟨r, hr, hsel, Except.ok.inj ((decode_of_selects hr hsel).symm.trans h)⟩

/-- Settles O2. -/
theorem encodeOfDecode : Obligations.EncodeOfDecode := by
  intro w i h
  obtain ⟨r, hr, hsel, rfl⟩ := exists_row_of_decode_ok h
  exact operands_of_selects hr hsel

/-! ## Disjoint rows -/

/-- No word selects two rows: they have different opcodes (R60). -/
theorem opcodeMap_pairwise_disjoint :
    opcodeMap.Pairwise fun a b => ∀ w, ¬ (a.selects w = true ∧ b.selects w = true) := by
  have hopcodes : opcodeMap.Pairwise fun a b => opField a.matchBits ≠ opField b.matchBits := by
    rw [← List.pairwise_map, opcodeMap_opcodes]
    decide
  refine hopcodes.imp_of_mem fun {a b} ha hb hne w hboth => hne ?_
  obtain ⟨hsela, hselb⟩ := hboth
  exact ((selects_iff_fields ha w).mp hsela).1.trans ((selects_iff_fields hb w).mp hselb).1.symm

/-- Settles O3. -/
theorem opcodeMapRowsAreDisjoint : Obligations.OpcodeMapRowsAreDisjoint := by
  refine ⟨by decide, opcodeMap_pairwise_disjoint.imp fun {a b} hdisjoint w hboth => hdisjoint w ?_⟩
  simpa only [Row.selects, beq_iff_eq] using hboth

/-! ## The number of legal words -/

/-- A row is met by one word for each value of the bits its format names. -/
theorem ncard_selects {r : Row} (hr : r ∈ opcodeMap) :
    Set.ncard {w : OpWord | r.selects w = true} = 2 ^ namedArgBits (opField r.matchBits) := by
  obtain ⟨hmatch, hmask⟩ := opcodeMap_columns r hr
  have hdvd : 2 ^ namedArgBits (opField r.matchBits) ∣ 2 ^ 32 := Nat.pow_dvd_pow 2 (namedArgBits_le _)
  have hle := Nat.le_of_dvd (by norm_num) hdvd
  have hop := (opField r.matchBits).isLt
  have himage : BitVec.toNat '' {w : OpWord | r.selects w = true} =
      Set.Ico r.matchBits.toNat (r.matchBits.toNat + 2 ^ namedArgBits (opField r.matchBits)) := by
    ext n
    simp only [Set.mem_image, Set.mem_ofPred_eq, Set.mem_Ico,
      selects_iff_interval r _ hmask (hmatch ▸ hdvd.mul_left _)]
    constructor
    · rintro ⟨w, hw, rfl⟩
      exact hw
    · intro hn
      have hlt : n < 2 ^ 40 := by omega
      exact ⟨BitVec.ofNatLT n hlt, hn, rfl⟩
  rw [← Set.ncard_image_of_injective _ BitVec.toNat_injective, himage, ← Finset.coe_Ico, Set.ncard_coe_finset,
    Nat.card_Ico, Nat.add_sub_cancel_left]

/-- Disjoint rows are counted one by one. -/
theorem ncard_any_selects (rows : List Row) (hrows : ∀ r ∈ rows, r ∈ opcodeMap)
    (hdisjoint : rows.Pairwise fun a b => ∀ w, ¬ (a.selects w = true ∧ b.selects w = true)) :
    Set.ncard {w : OpWord | (rows.any fun r => r.selects w) = true} =
      (rows.map fun r => 2 ^ namedArgBits (opField r.matchBits)).sum := by
  induction rows with
  | nil => simp
  | cons r rows ih =>
    obtain ⟨hr, hrest⟩ := List.pairwise_cons.mp hdisjoint
    have hunion : {w : OpWord | ((r :: rows).any fun r => r.selects w) = true} =
        {w | r.selects w = true} ∪ {w | (rows.any fun r => r.selects w) = true} := by
      ext w
      simp
    have hsep : Disjoint {w : OpWord | r.selects w = true} {w | (rows.any fun r => r.selects w) = true} := by
      rw [Set.disjoint_left]
      intro w hw hany
      obtain ⟨r', hr', hw'⟩ := List.any_eq_true.mp hany
      exact hr r' hr' w ⟨hw, hw'⟩
    rw [hunion, Set.ncard_union_eq hsep, ncard_selects (hrows r List.mem_cons_self),
      ih (fun r' hr' => hrows r' (List.mem_cons_of_mem r hr')) hrest, List.map_cons, List.sum_cons]

/-- A word that is not legal is illegal: the decoder refuses it (R61). -/
theorem illegal_of_not_isLegal {w : OpWord} (h : isLegal w = false) : Machine.Illegal w :=
  ⟨h, decode_error_of_not_isLegal h⟩

/-- Settles O6: the legal words are those of the 13 disjoint rows, and each row is an interval. -/
theorem legalWordCount : Obligations.LegalWordCount := by
  refine ⟨fun w => ?meaning, ?count, by norm_num⟩
  case meaning =>
    cases hlegal : isLegal w with
    | true => exact .inl ⟨rfl, (Machine.isLegal_iff_decode_ok w).mp hlegal⟩
    | false => exact .inr (illegal_of_not_isLegal hlegal)
  case count =>
    simp only [← Machine.isLegal_iff_decode_ok]
    exact (ncard_any_selects opcodeMap (fun _ hr => hr) opcodeMap_pairwise_disjoint).trans (by decide)

/-! ## Fixed words -/

/-- Settles O7. -/
theorem allZerosAndAllOnesAreIllegal : Obligations.AllZerosAndAllOnesAreIllegal :=
  ⟨illegal_of_not_isLegal (by decide), illegal_of_not_isLegal (by decide)⟩

/-- Settles O8. -/
theorem printedWordsDecode : Obligations.PrintedWordsDecode := by
  refine ⟨?_, ?_, ?_, ?_, ?_, ?_, ?_⟩
  all_goals decide

end Sys2Proof

/-! PROOF. What one move of the host does (10_state.md R27, R31), said once: it completes, it leaves in `crc` what its
operation's row of R27 says, and a word delivers one response, decided by the configuration, `crc` and the word alone.
Then the run that takes all moves, and what a run leaves in `crc`. -/

namespace Sys2Proof.Machine

/-! ## One move -/

/-- A one-shot operation has no access to `crc` (10_state.md R27). -/
theorem crcAfterInstr_of_oneShot {i : Instr} (hi : i.streaming = false) (cfg : Config) (c : Byte) :
    crcAfterInstr cfg c i = c := by
  cases i with
  | crcSeed | crcUpd | crcGet | crcChk => cases hi
  | _ => rfl

/-- The response of an operation is decided by the configuration and `crc`. -/
theorem exec_same_response (i : Instr) (cfg : Config) (c : Byte) :
    ∃ r, ∀ s, s.config = cfg → s.crc = c → exec i s = .next (deliver r (writeCrc (crcAfterInstr cfg c i) s)) := by
  cases hi : i.streaming with
  | false =>
    obtain ⟨r, hr⟩ := exec_oneShot_same_response hi cfg
    refine ⟨r, fun s hcfg hc => ?_⟩
    rw [crcAfterInstr_of_oneShot hi, hr s hcfg, ← hc]
    rfl
  | true =>
    cases i with
    | crcSeed => exact ⟨⟨.ok, 0⟩, by rintro s rfl rfl; exact exec_crcSeed s⟩
    | crcUpd d => exact ⟨⟨.ok, byteRes (crc8Byte cfg.crcPoly c d)⟩, by rintro s rfl rfl; exact exec_crcUpd d s⟩
    | crcGet => exact ⟨⟨.ok, byteRes c⟩, by rintro s rfl rfl; exact exec_crcGet s⟩
    | crcChk e => exact ⟨chkResponse c e, by rintro s rfl rfl; exact exec_crcChk e s⟩
    | _ => cases hi

/-- The value of `crc` after a move, when it was `c` before. -/
def crcAfterMove (cfg : Config) (c : Byte) : HostMove → Byte
  | .reset => cfg.crcInit
  | .word w =>
    match decode w with
    | .ok i => crcAfterInstr cfg c i
    | .error _ => c

theorem crcAfterMove_of_decode_ok {w : OpWord} {i : Instr} (h : decode w = .ok i) (cfg : Config) (c : Byte) :
    crcAfterMove cfg c (.word w) = crcAfterInstr cfg c i := by
  simp only [crcAfterMove, h]

theorem crcAfterMove_of_decode_error {w : OpWord} {e : DecodeError} (h : decode w = .error e) (cfg : Config)
    (c : Byte) : crcAfterMove cfg c (.word w) = c := by
  simp only [crcAfterMove, h]

/-- A reset writes `crc` and takes its move, and that is all (70_reset_and_hazards.md R165). -/
theorem step_reset {s : State} {rest : List HostMove} (hmoves : s.moves = .reset :: rest) :
    step s = .next (writeCrc s.config.crcInit { s with moves := rest }) := by
  simp only [step, takeMove, hmoves]
  rfl

/-- With no move the block is idle (60_exceptions.md R158). -/
theorem step_idle {s : State} (hmoves : s.moves = []) : step s = .next s := by
  simp only [step, takeMove, hmoves, idle_eq]

/-- A word takes its move, writes `crc` and delivers one response, and that is all. The response is the same from every
state with this configuration and this `crc`. -/
theorem step_word_same_response (w : OpWord) (cfg : Config) (c : Byte) :
    ∃ r, ∀ (s : State) (rest : List HostMove), s.moves = .word w :: rest → s.config = cfg → s.crc = c →
      step s = .next (deliver r (writeCrc (crcAfterMove cfg c (.word w)) { s with moves := rest })) := by
  cases hdecode : decode w with
  | ok i =>
    obtain ⟨r, hr⟩ := exec_same_response i cfg c
    refine ⟨r, fun s rest hmoves hcfg hc => ?_⟩
    rw [step_of_decode_ok hmoves hdecode, crcAfterMove_of_decode_ok hdecode]
    exact hr _ hcfg hc
  | error e =>
    refine ⟨⟨.illegalOperation, 0⟩, fun s rest hmoves _ hc => ?_⟩
    rw [step_of_decode_error hmoves hdecode, crcAfterMove_of_decode_error hdecode, ← hc]
    rfl

theorem step_word {s : State} {w : OpWord} {rest : List HostMove} (hmoves : s.moves = .word w :: rest) :
    ∃ r, step s = .next (deliver r (writeCrc (crcAfterMove s.config s.crc (.word w)) { s with moves := rest })) := by
  obtain ⟨r, hr⟩ := step_word_same_response w s.config s.crc
  exact ⟨r, hr s rest hmoves rfl rfl⟩

/-- All that a move does. -/
theorem step_cons {s : State} {m : HostMove} {rest : List HostMove} (hmoves : s.moves = m :: rest) :
    ∃ t new, step s = .next t ∧ t.moves = rest ∧ t.config = s.config ∧ t.crc = crcAfterMove s.config s.crc m ∧
      t.responses = s.responses ++ new ∧ new.length = (wordMoves [m]).length := by
  cases m with
  | reset => exact ⟨_, [], step_reset hmoves, rfl, rfl, rfl, by simp, rfl⟩
  | word w =>
    obtain ⟨r, hr⟩ := step_word hmoves
    exact ⟨_, [r], hr, rfl, rfl, rfl, rfl, rfl⟩

/-! ## The steps -/

/-- Settles O9. -/
theorem stepRunsDecodedWord : Obligations.StepRunsDecodedWord :=
  fun _ _ _ _ hmoves hdecode => step_of_decode_ok hmoves hdecode

/-- Settles O12. -/
theorem everyStepCompletes : Obligations.EveryStepCompletes := by
  intro s
  cases hmoves : s.moves with
  | nil => exact ⟨s, step_idle hmoves, rfl, hmoves, rfl⟩
  | cons m rest =>
    cases m with
    | reset => exact ⟨_, step_reset hmoves, rfl, rfl, rfl⟩
    | word w =>
      obtain ⟨r, hr⟩ := step_word hmoves
      exact ⟨_, hr, rfl, rfl, r, rfl⟩

/-- Settles O18: by induction on the number of steps, since every step completes. -/
theorem blockNeverStops : Obligations.BlockNeverStops := by
  intro s k
  induction k generalizing s with
  | zero => exact ⟨s, run_zero s⟩
  | succ k ih =>
    obtain ⟨u, hstep, -⟩ := everyStepCompletes s
    obtain ⟨t, hrun⟩ := ih u
    exact ⟨t, (run_succ k s u hstep).trans hrun⟩

/-- Settles O19. -/
theorem resetEventSeedsCrc : Obligations.ResetEventSeedsCrc :=
  ⟨rfl, fun s _ hmoves => ⟨step_reset hmoves, _, exec_crcSeed s, rfl⟩⟩

/-- Settles O20. -/
theorem idleStepChangesNothing : Obligations.IdleStepChangesNothing := fun _ hmoves => step_idle hmoves

/-- Settles O21. -/
theorem resetStateIsTheSpecs : Obligations.ResetStateIsTheSpecs := ⟨rfl, rfl, rfl, rfl, rfl, rfl⟩

/-- Settles O48. -/
theorem oneShotIsAFunctionOfItsArgument : Obligations.OneShotIsAFunctionOfItsArgument := by
  intro i s u hi hconfig
  obtain ⟨r, hr⟩ := exec_oneShot_same_response hi u.config
  exact ⟨r, hr s hconfig, hr u rfl⟩

/-- Settles O49: the table of R27, read off for each operation. -/
theorem crcWrittenPerMove : Obligations.CrcWrittenPerMove := by
  intro s m rest hmoves
  obtain ⟨t, -, hstep, hrest, hconfig, hcrc, -⟩ := step_cons hmoves
  refine ⟨t, hstep, hconfig, hrest, ?reset, ?legal, ?illegal⟩
  case reset =>
    rintro rfl
    exact hcrc
  case legal =>
    rintro w rfl i hdecode
    rw [hcrc, crcAfterMove_of_decode_ok hdecode]
    refine ⟨?_, ?_, ?_, ?_, fun hi => crcAfterInstr_of_oneShot hi _ _⟩
    · rintro rfl; rfl
    · rintro d rfl; rfl
    · rintro rfl; rfl
    · rintro e rfl; rfl
  case illegal =>
    rintro w rfl hillegal
    obtain ⟨e, hdecode⟩ := decode_error_of_not_isLegal hillegal
    rw [hcrc, crcAfterMove_of_decode_error hdecode]

/-- Settles O50: what a word delivers is decided without the responses. -/
theorem responsesAreNeverRead : Obligations.ResponsesAreNeverRead := by
  intro s t history hstep
  rcases takeMove_cases s with ⟨hmoves, -⟩ | ⟨m, rest, hmoves, -⟩
  · obtain rfl : s = t := Host.Outcome.next.inj ((step_idle hmoves).symm.trans hstep)
    exact ⟨[], by simp, by simpa using step_idle (s := { s with responses := history }) hmoves⟩
  cases m with
  | reset =>
    obtain rfl := Host.Outcome.next.inj ((step_reset hmoves).symm.trans hstep)
    refine ⟨[], by simp, ?_⟩
    rw [List.append_nil]
    exact step_reset (s := { s with responses := history }) hmoves
  | word w =>
    obtain ⟨r, hr⟩ := step_word_same_response w s.config s.crc
    obtain rfl := Host.Outcome.next.inj ((hr s rest hmoves rfl rfl).symm.trans hstep)
    exact ⟨[r], rfl, hr { s with responses := history } rest hmoves rfl rfl⟩

/-! ## Invariants of every step -/

/-- Settles O15: a step with no move is idle, and a move leaves the CRC of the group it leaves. -/
theorem stepKeepsCrcOfGroupInProgress : Obligations.StepKeepsCrcOfGroupInProgress := by
  intro s t g hg hstep
  cases hmoves : s.moves with
  | nil =>
    obtain rfl : s = t := Host.Outcome.next.inj ((step_idle hmoves).symm.trans hstep)
    exact hg
  | cons m rest =>
    obtain ⟨u, hu, -, hconfig, hcrc⟩ := step_cons_keeps_crc_of_group hmoves hg
    obtain rfl : u = t := Host.Outcome.next.inj (hu.symm.trans hstep)
    exact hcrc.trans (congrArg (crc8 · _) hconfig.symm)

/-- The two bytes of a `ChecksumError` stand where format G1 has its two. -/
theorem crcPairRes_eq_argG1 (e c : Byte) : crcPairRes e c = argG1 e c := rfl

/-- Two different CRC bytes under sixteen zero bits: no data (60_exceptions.md R145). -/
theorem errorShape_crcPairRes {c e : Byte} (h : c ≠ e) :
    (Response.mk .checksumError (crcPairRes e c)).errorShape = true := by
  simp [Response.errorShape, crcPairRes_eq_argG1, h.symm]

/-- Whatever an operation answers has the shape of its status. -/
theorem AnswersOrRaises.errorShape {cfg : Config} {c : Byte} {i : Instr} {r : Response}
    (h : AnswersOrRaises cfg c i r) : r.errorShape = true := by
  rcases h.ok_or_raises with hok | hraises
  · simp [Response.errorShape, hok]
  · cases hraises with
    | crcChk hne | crcChk1 hne | crcChk2 hne => exact errorShape_crcPairRes hne
    | cvtToe => rfl

/-- Every response a step adds has its shape. -/
theorem step_adds_shaped {s t : State} (hstep : step s = .next t) :
    ∃ new, t.responses = s.responses ++ new ∧ ∀ r ∈ new, r.errorShape = true := by
  rcases step_cases s with ⟨-, hs⟩ | ⟨rest, -, hs⟩ | ⟨w, rest, i, -, -, hs⟩ | ⟨w, rest, e, -, -, hs⟩
  · obtain rfl := Host.Outcome.next.inj (hs.symm.trans hstep)
    exact ⟨[], by simp⟩
  · obtain rfl := Host.Outcome.next.inj (hs.symm.trans hstep)
    exact ⟨[], by simp⟩
  · obtain ⟨u, r, hexec, hresponses, hanswer⟩ := exec_answers i { s with moves := rest }
    obtain rfl : u = t := Host.Outcome.next.inj ((hs.trans hexec).symm.trans hstep)
    exact ⟨[r], hresponses, by simpa using hanswer.errorShape⟩
  · obtain rfl := (raiseIllegal_next_iff _ _).mp (hs.symm.trans hstep)
    exact ⟨[⟨.illegalOperation, 0⟩], rfl, by simp [Response.errorShape]⟩

/-- Settles O13. -/
theorem stepKeepsErrorResponsesFreeOfData : Obligations.StepKeepsErrorResponsesFreeOfData := by
  intro s t hshaped hstep
  obtain ⟨new, hresponses, hnew⟩ := step_adds_shaped hstep
  rw [State.ResponsesShaped, hresponses]
  exact List.forall_mem_append.mpr ⟨hshaped, hnew⟩

/-- Settles O14. -/
theorem resetErrorResponsesFreeOfData : Obligations.ResetErrorResponsesFreeOfData :=
  fun _ hr => absurd hr List.not_mem_nil

/-- Of the operations that raise an error, only `CRC.CHK` writes `crc` (60_exceptions.md R150). -/
theorem crcAfterInstr_of_raises {cfg : Config} {c : Byte} {i : Instr} {r : Response} (h : Raises cfg c i r) :
    (∃ e, i = .crcChk e) ∨ crcAfterInstr cfg c i = c := by
  cases h with
  | crcChk => exact .inl ⟨_, rfl⟩
  | crcChk1 | crcChk2 | cvtToe => exact .inr rfl

/-- A word whose response is not OK leaves `crc`, if it is not a `CRC.CHK`: it is illegal or its operation raises. -/
theorem crcAfterMove_of_error {s t : State} {w : OpWord} {rest : List HostMove} {r : Response}
    (hmoves : s.moves = .word w :: rest) (hstep : step s = .next t) (hresponses : t.responses = s.responses ++ [r])
    (hstatus : r.status ≠ .ok) (hnotChk : ¬ ∃ e, decode w = .ok (.crcChk e)) :
    crcAfterMove s.config s.crc (.word w) = s.crc := by
  cases hdecode : decode w with
  | error e => exact crcAfterMove_of_decode_error hdecode _ _
  | ok i =>
    obtain ⟨u, r', hexec, hresponses', hanswer⟩ := exec_answers i { s with moves := rest }
    obtain rfl : u = t :=
      Host.Outcome.next.inj (((step_of_decode_ok hmoves hdecode).trans hexec).symm.trans hstep)
    obtain rfl : r' = r := by simpa using hresponses'.symm.trans hresponses
    rw [crcAfterMove_of_decode_ok hdecode]
    refine (crcAfterInstr_of_raises (hanswer.raises_of_status rfl hstatus)).resolve_left ?_
    rintro ⟨e, rfl⟩
    exact hnotChk ⟨e, hdecode⟩

/-- Settles O56: what the step leaves in `crc` is all that depends on the operation. -/
theorem errorsArePrecise : Obligations.ErrorsArePrecise := by
  intro s t w rest r hmoves hstep hresponses hstatus
  have hkept := crcAfterMove_of_error hmoves hstep hresponses hstatus
  obtain ⟨r', hr'⟩ := step_word hmoves
  obtain rfl := Host.Outcome.next.inj (hr'.symm.trans hstep)
  obtain rfl : r' = r := by simpa using hresponses
  refine ⟨?crcChk, fun hnotChk => ?others⟩
  case crcChk =>
    rintro ⟨e, hdecode⟩
    rw [crcAfterMove_of_decode_ok hdecode]
    rfl
  case others =>
    rw [hkept hnotChk]
    rfl

/-! ## Runs -/

theorem wordMoves_cons (m : HostMove) (ms : List HostMove) : wordMoves (m :: ms) = wordMoves [m] ++ wordMoves ms := by
  rw [wordMoves, wordMoves, wordMoves, ← List.filter_append, List.singleton_append]

/-- The run that takes all of the host's moves: what it leaves in `crc` is the moves' effects one after the other, and
it adds a response for each word. -/
theorem run_takes_all_moves (s : State) :
    ∃ t new, RunsTo s.moves.length s t ∧ t.moves = [] ∧ t.config = s.config ∧
      t.crc = s.moves.foldl (crcAfterMove s.config) s.crc ∧ t.responses = s.responses ++ new ∧
      new.length = (wordMoves s.moves).length := by
  induction hmoves : s.moves generalizing s with
  | nil => exact ⟨s, [], run_zero s, hmoves, rfl, rfl, by simp, rfl⟩
  | cons m rest ih =>
    obtain ⟨u, new, hstep, hrest, hconfig, hcrc, hresponses, hnew⟩ := step_cons hmoves
    obtain ⟨t, new', hrun, hnil, hconfig', hcrc', hresponses', hnew'⟩ := ih u hrest
    refine ⟨t, new ++ new', (run_succ rest.length s u hstep).trans hrun, hnil, hconfig'.trans hconfig, ?_, ?_, ?_⟩
    · rw [hcrc', hconfig, hcrc, List.foldl_cons]
    · rw [hresponses', hresponses, List.append_assoc]
    · rw [List.length_append, hnew, hnew', ← List.length_append, ← wordMoves_cons]

/-- The value of `crc` at the end of such a run. -/
theorem crc_of_run {s t : State} (hrun : RunsTo s.moves.length s t) :
    t.crc = s.moves.foldl (crcAfterMove s.config) s.crc := by
  obtain ⟨u, -, hu, -, -, hcrc, -⟩ := run_takes_all_moves s
  obtain rfl : u = t := Host.Outcome.next.inj (hu.symm.trans hrun)
  exact hcrc

/-- Settles O17. -/
theorem runTakesEveryMove : Obligations.RunTakesEveryMove := by
  intro s
  obtain ⟨t, new, hrun, hnil, hconfig, -, hresponses, hnew⟩ := run_takes_all_moves s
  exact ⟨t, hrun, hnil, hconfig, ⟨new, hresponses.symm⟩, by rw [hresponses, List.length_append, hnew]⟩

/-- A move that touches no group leaves `crc` (70_reset_and_hazards.md R170). -/
theorem crcAfterMove_of_not_touchesGroup {m : HostMove} (h : m.touchesGroup = false) (cfg : Config) (c : Byte) :
    crcAfterMove cfg c m = c := by
  cases m with
  | reset => cases h
  | word w =>
    cases hdecode : decode w with
    | error e => exact crcAfterMove_of_decode_error hdecode cfg c
    | ok i =>
      rw [HostMove.touchesGroup, hdecode] at h
      rw [crcAfterMove_of_decode_ok hdecode, crcAfterInstr_of_oneShot h]

/-- Taking out the moves that touch no group leaves the end value of `crc`. -/
theorem foldl_crcAfterMove_filter (cfg : Config) (c : Byte) (ms : List HostMove) :
    (ms.filter HostMove.touchesGroup).foldl (crcAfterMove cfg) c = ms.foldl (crcAfterMove cfg) c := by
  induction ms generalizing c with
  | nil => rfl
  | cons m ms ih =>
    cases h : m.touchesGroup with
    | true => rw [List.filter_cons_of_pos h, List.foldl_cons, List.foldl_cons, ih]
    | false =>
      rw [List.filter_cons_of_neg (by simp [h]), ih, List.foldl_cons, crcAfterMove_of_not_touchesGroup h]

/-- Settles O58. -/
theorem otherWordsDoNotDisturbAGroup : Obligations.OtherWordsDoNotDisturbAGroup := by
  intro s t u ht hu
  rw [crc_of_run ht, crc_of_run (s := { s with moves := s.moves.filter HostMove.touchesGroup }) hu]
  exact (foldl_crcAfterMove_filter s.config s.crc s.moves).symm

end Sys2Proof.Machine

/-! PROOF. The equivalent forms of the CRC byte step (40_crc.md R85, R86): a byte is taken in by XORing it into the
register and shifting eight times. -/

namespace Sys2Proof.Machine

/-- A bit step under a zero data bit looks only at the register's top bit (R85). -/
theorem crc8Bit_false (poly c : Byte) : crc8Bit poly c false = step8Bit poly c := by
  simp [crc8Bit_eq_step8Bit]

/-- A zero byte shifts the register eight times (R85). -/
theorem crc8Byte_zero (poly c : Byte) : crc8Byte poly c 0 = step8 poly c := by
  simp only [crc8Byte, BitVec.ofNat_eq_ofNat, BitVec.getLsbD_zero, crc8Bit_false]
  rfl

/-- A byte can be XORed into the register first: the two enter the CRC alike, and a byte shifts itself out. -/
theorem crc8Byte_eq_xor_zero (poly c d : Byte) : crc8Byte poly c d = crc8Byte poly (c ^^^ d) 0 := by
  calc crc8Byte poly c d
      = crc8Byte poly ((c ^^^ d) ^^^ d) (0 ^^^ d) := by simp
    _ = crc8Byte poly (c ^^^ d) 0 ^^^ crc8Byte poly d d := crc8Byte_xor _ _ _ _ _
    _ = crc8Byte poly (c ^^^ d) 0 := by simp

/-- Settles O25. -/
theorem crcByteWiseForm : Obligations.CrcByteWiseForm := by
  intro poly c d
  rw [crc8Byte_eq_xor_zero, crc8Byte_zero]

/-- A table lookup stands for a byte step. -/
theorem crc8Byte_eq_crcTable (poly c d : Byte) : crc8Byte poly c d = crcTable poly (c ^^^ d) := by
  rw [crcTable, crc8Byte_zero_register, crc8Byte_eq_xor_zero]

/-- Settles O26: the form by linearity, the printed entries by evaluation. -/
theorem crcTableForm : Obligations.CrcTableForm :=
  ⟨crc8Byte_eq_crcTable, by decide +kernel, by decide +kernel, by decide, by decide⟩

/-- Settles O24. -/
theorem crcCheckValues : Obligations.CrcCheckValues := ⟨by decide +kernel, rfl, by decide +kernel⟩

/-- Settles O28: a checksum that enters a register equal to it shifts out to zero. -/
theorem crcZeroResidue : Obligations.CrcZeroResidue := by
  intro cfg data
  rw [crc8_append_singleton, crc8Byte_self]

end Sys2Proof.Machine

/-! PROOF. The converter's integer laws (41_convert.md R113 to R118, R124): the nearest Q16.16 number and its distance,
the ranges of the four maps, when a delivered value is exact, and the round trip of a temperature offset. -/

namespace Sys2Proof.Machine

/-! ## The nearest integer -/

/-- The nearest Q16.16 number is within a half, and on a tie it is the upper one (R113). -/
theorem q16Nearest_bounds (r : ℚ) :
    (q16Nearest r : ℚ) ≤ r * 65536 + 1 / 2 ∧ r * 65536 - 1 / 2 < (q16Nearest r : ℚ) := by
  have hlow := Int.floor_le (r * 65536 + 1 / 2)
  have hhigh := Int.lt_floor_add_one (r * 65536 + 1 / 2)
  refine ⟨hlow, ?_⟩
  rw [q16Nearest]
  linarith

theorem abs_q16Nearest_sub_le_half (r : ℚ) : |(q16Nearest r : ℚ) - r * 65536| ≤ 1 / 2 := by
  obtain ⟨hlow, hhigh⟩ := q16Nearest_bounds r
  exact abs_le.mpr ⟨by linarith, by linarith⟩

/-- Two different integers are at least one apart, so their distances to any number add up to at least one. -/
theorem one_le_abs_sub_add_abs_sub {q v : Int} (h : v ≠ q) (x : ℚ) : 1 ≤ |(v : ℚ) - x| + |(q : ℚ) - x| := by
  calc (1 : ℚ)
      ≤ |(v : ℚ) - q| := by exact_mod_cast Int.one_le_abs (sub_ne_zero.mpr h)
    _ ≤ |(v : ℚ) - x| + |x - q| := abs_sub_le _ _ _
    _ = |(v : ℚ) - x| + |(q : ℚ) - x| := by rw [abs_sub_comm x]

/-- An integer above the nearest one is more than a half away. -/
theorem half_lt_abs_sub_of_gt {r : ℚ} {v : Int} (h : q16Nearest r < v) : 1 / 2 < |(v : ℚ) - r * 65536| := by
  obtain ⟨-, hhigh⟩ := q16Nearest_bounds r
  have hv : (q16Nearest r : ℚ) + 1 ≤ v := by exact_mod_cast h
  exact lt_of_lt_of_le (by linarith) (le_abs_self _)

/-! ## The four maps as fractions with an even denominator -/

theorem vocExact_eq_div (t : Int) : vocExact t = (t : ℚ) / (2 * (5 : Nat)) := by norm_num [vocExact_eq]

theorem rhExact_eq_div (t : Int) : rhExact t = (t : ℚ) / (2 * (50 : Nat)) := by norm_num [rhExact_eq]

theorem tcExact_eq_div (t : Int) : tcExact t = (t : ℚ) / (2 * (100 : Nat)) := by norm_num [tcExact_eq]

theorem tfExact_eq_div (t : Int) : tfExact t = ((9 * t + 32000 : Int) : ℚ) / (2 * (500 : Nat)) := by
  rw [tfExact_eq]
  push_cast
  ring

/-- The distance of a fraction from its nearest Q16.16 number, counted in parts of the denominator. -/
theorem abs_q16Nearest_div_sub_le {n parts : Int} {half : Nat} (hpos : 0 < half)
    (hparts : |(2 ^ 16 * n + half) / (2 * half) * (2 * half) - 2 ^ 16 * n| ≤ parts) :
    |(q16Nearest ((n : ℚ) / (2 * half)) : ℚ) - (n : ℚ) / (2 * half) * 65536| ≤ parts / (2 * half) := by
  have hd : (0 : ℚ) < 2 * half := by positivity
  rw [q16Nearest_div_two_mul n hpos]
  generalize (2 ^ 16 * n + half) / (2 * half : Int) = q at hparts ⊢
  have hscaled : (q : ℚ) - (n : ℚ) / (2 * half) * 65536 = ((q * (2 * half) - 2 ^ 16 * n : Int) : ℚ) / (2 * half) := by
    push_cast
    field_simp
  rw [hscaled, abs_div, abs_of_pos hd, ← Int.cast_abs]
  exact div_le_div_of_nonneg_right (Int.cast_le.mpr hparts) hd.le

/-! The numerators are multiples of 2, 4, 8 and 8, which no tie is: the error bounds of R113. -/

theorem abs_q16Nearest_vocExact_sub_le (t : Int) : |(q16Nearest (vocExact t) : ℚ) - vocExact t * 65536| ≤ 4 / 10 := by
  have h := abs_q16Nearest_div_sub_le (n := t) (parts := 4) (half := 5) (by decide) (abs_le.mpr ⟨by omega, by omega⟩)
  rw [vocExact_eq_div]
  exact h.trans (by norm_num)

theorem abs_q16Nearest_rhExact_sub_le (t : Int) : |(q16Nearest (rhExact t) : ℚ) - rhExact t * 65536| ≤ 48 / 100 := by
  have h := abs_q16Nearest_div_sub_le (n := t) (parts := 48) (half := 50) (by decide) (abs_le.mpr ⟨by omega, by omega⟩)
  rw [rhExact_eq_div]
  exact h.trans (by norm_num)

theorem abs_q16Nearest_tcExact_sub_le (t : Int) : |(q16Nearest (tcExact t) : ℚ) - tcExact t * 65536| ≤ 48 / 100 := by
  have h := abs_q16Nearest_div_sub_le (n := t) (parts := 96) (half := 100) (by decide)
    (abs_le.mpr ⟨by omega, by omega⟩)
  rw [tcExact_eq_div]
  exact h.trans (by norm_num)

theorem abs_q16Nearest_tfExact_sub_le (t : Int) :
    |(q16Nearest (tfExact t) : ℚ) - tfExact t * 65536| ≤ 496 / 1000 := by
  have h := abs_q16Nearest_div_sub_le (n := 9 * t + 32000) (parts := 496) (half := 500) (by decide)
    (abs_le.mpr ⟨by omega, by omega⟩)
  rw [tfExact_eq_div]
  exact h.trans (by norm_num)

/-- Settles O44: no integer is nearer, since the distances of two integers add up to at least one, and the four maps
stay clear of the ties. -/
theorem nearestMinimisesDistance : Obligations.NearestMinimisesDistance := by
  refine ⟨fun r v => ?nearest, fun r v heq => ?upper, fun t r hr v hv => ?noTie, fun t =>
    ⟨abs_q16Nearest_vocExact_sub_le t, abs_q16Nearest_rhExact_sub_le t, abs_q16Nearest_tcExact_sub_le t,
      abs_q16Nearest_tfExact_sub_le t⟩⟩
  case nearest =>
    rcases eq_or_ne v (q16Nearest r) with rfl | hv
    · exact le_rfl
    · linarith [one_le_abs_sub_add_abs_sub hv (r * 65536), abs_q16Nearest_sub_le_half r]
  case upper =>
    by_contra hgt
    linarith [half_lt_abs_sub_of_gt (not_le.mp hgt), abs_q16Nearest_sub_le_half r]
  case noTie =>
    have herror : |(q16Nearest r : ℚ) - r * 65536| < 1 / 2 := by
      simp only [List.mem_cons, List.not_mem_nil, or_false] at hr
      rcases hr with rfl | rfl | rfl | rfl
      · exact (abs_q16Nearest_vocExact_sub_le t).trans_lt (by norm_num)
      · exact (abs_q16Nearest_rhExact_sub_le t).trans_lt (by norm_num)
      · exact (abs_q16Nearest_tcExact_sub_le t).trans_lt (by norm_num)
      · exact (abs_q16Nearest_tfExact_sub_le t).trans_lt (by norm_num)
    linarith [one_le_abs_sub_add_abs_sub hv (r * 65536)]

/-! ## The datapath -/

/-- Settles O42: the constants by the bounds of a floor. -/
theorem datapathIsExactToNearest : Obligations.DatapathIsExactToNearest := by
  refine ⟨⟨?_, ?_, ?_, ?_⟩, fun t hlow hhigh => ⟨vocValue_eq_q16Nearest hlow hhigh, rhValue_eq_q16Nearest hlow hhigh,
    tcValue_eq_q16Nearest hlow hhigh, tfValue_eq_q16Nearest hlow hhigh⟩⟩
  · norm_num [eq_comm, Int.floor_eq_iff, kVoc]
  · norm_num [eq_comm, Int.floor_eq_iff, kRh]
  · norm_num [eq_comm, Int.floor_eq_iff, kTc]
  · norm_num [eq_comm, Int.floor_eq_iff, kTf]

/-- With a constant of at least one unit of the result, the datapath is strictly increasing (R116). -/
theorem mulshift_strictMono {k : Nat} (hk : 2 ^ 24 ≤ k) : StrictMono fun t => mulshift t k := by
  intro t u htu
  have hproduct : (t + 1) * (k : Int) ≤ u * k := mul_le_mul_of_nonneg_right htu (Int.natCast_nonneg k)
  rw [add_mul, one_mul] at hproduct
  simp only [mulshift_eq]
  omega

theorem vocValue_strictMono : StrictMono vocValue := mulshift_strictMono (by decide)

theorem rhValue_strictMono : StrictMono rhValue := mulshift_strictMono (by decide)

theorem tcValue_strictMono : StrictMono tcValue := mulshift_strictMono (by decide)

theorem tfValue_strictMono : StrictMono tfValue := (mulshift_strictMono (by decide)).add_const tfOffset

/-- A monotone map of the ticks stays between its values at the ends of the range. -/
theorem between_of_monotone {f : Int → Int} (hf : Monotone f) {t : Int} (hlow : -32768 ≤ t) (hhigh : t ≤ 32767) :
    f (-32768) ≤ f t ∧ f t ≤ f 32767 := ⟨hf hlow, hf hhigh⟩

section
variable {t : Int} (hlow : -32768 ≤ t) (hhigh : t ≤ 32767)
include hlow hhigh

/-! The printed ranges of R116. -/

theorem vocValue_range : -214748365 ≤ vocValue t ∧ vocValue t ≤ 214741811 :=
  between_of_monotone vocValue_strictMono.monotone hlow hhigh

theorem rhValue_range : -21474836 ≤ rhValue t ∧ rhValue t ≤ 21474181 :=
  between_of_monotone rhValue_strictMono.monotone hlow hhigh

theorem tcValue_range : -10737418 ≤ tcValue t ∧ tcValue t ≤ 10737091 :=
  between_of_monotone tcValue_strictMono.monotone hlow hhigh

theorem tfValue_range : -17230201 ≤ tfValue t ∧ tfValue t ≤ 21423915 :=
  between_of_monotone tfValue_strictMono.monotone hlow hhigh

/-- No product plus rounding constant needs more than 53 bits. -/
theorem product_fits {k : Nat} (hk : k < 2 ^ 37 - 2 ^ 8) :
    -2 ^ 52 ≤ t * k + 2 ^ 23 ∧ t * k + 2 ^ 23 < 2 ^ 52 := by
  have hk0 : (0 : Int) ≤ k := Int.natCast_nonneg k
  have hproductLow : -32768 * (k : Int) ≤ t * k := mul_le_mul_of_nonneg_right hlow hk0
  have hproductHigh : t * (k : Int) ≤ 32767 * k := mul_le_mul_of_nonneg_right hhigh hk0
  omega

end

/-- Settles O43: the ranges from the ends, since every map is increasing. -/
theorem conversionRanges : Obligations.ConversionRanges := by
  refine ⟨fun t u htu => ⟨vocValue_strictMono htu, rhValue_strictMono htu, tcValue_strictMono htu,
    tfValue_strictMono htu⟩, fun t hlow hhigh => ⟨vocValue_range hlow hhigh, rhValue_range hlow hhigh,
    tcValue_range hlow hhigh, tfValue_range hlow hhigh, fun k hk => ?fits⟩, by decide⟩
  case fits =>
    have hbound : ∀ k ∈ [kVoc, kRh, kTc, kTf], k < 2 ^ 37 - 2 ^ 8 := by decide
    exact product_fits hlow hhigh (hbound k hk)

/-! ## When a delivered value is exact -/

/-- A delivered value that fits 32 bits equals a fraction exactly when the cross products agree. -/
theorem q16Value_ofInt_eq_div_iff {v n : Int} {half : Nat} (hpos : 0 < half) (hlow : -2 ^ 31 ≤ v) (hhigh : v < 2 ^ 31) :
    q16Value (BitVec.ofInt 32 v) = (n : ℚ) / (2 * half) ↔ v * (2 * half) = n * 65536 := by
  rw [q16Value, BitVec.toInt_ofInt_eq_self (by norm_num) (by simpa using hlow) (by simpa using hhigh),
    div_eq_div_iff (by norm_num) (by positivity)]
  norm_cast

section
variable {t : Int} (hlow : -32768 ≤ t) (hhigh : t ≤ 32767)
include hlow hhigh

/-! The delivered integers as floor divisions of the exact numerators. -/

theorem vocValue_eq_ediv : vocValue t = (65536 * t + 5) / 10 := by
  rw [vocValue_eq_q16Nearest hlow hhigh, vocExact_eq_div, q16Nearest_div_two_mul t (by decide)]
  rfl

theorem rhValue_eq_ediv : rhValue t = (65536 * t + 50) / 100 := by
  rw [rhValue_eq_q16Nearest hlow hhigh, rhExact_eq_div, q16Nearest_div_two_mul t (by decide)]
  rfl

theorem tcValue_eq_ediv : tcValue t = (65536 * t + 100) / 200 := by
  rw [tcValue_eq_q16Nearest hlow hhigh, tcExact_eq_div, q16Nearest_div_two_mul t (by decide)]
  rfl

theorem tfValue_eq_ediv : tfValue t = (65536 * (9 * t + 32000) + 500) / 1000 := by
  rw [tfValue_eq_q16Nearest hlow hhigh, tfExact_eq_div, q16Nearest_div_two_mul _ (by decide)]
  rfl

end

/-- Settles O46: the floor division is exact when the denominator divides, and 65536 takes part in it only with its
powers of two. -/
theorem conversionExactness : Obligations.ConversionExactness := by
  intro t hlow hhigh
  refine ⟨?voc, ?rh, ?tc, ?tf⟩
  case voc =>
    obtain ⟨hmin, hmax⟩ := vocValue_range hlow hhigh
    rw [vocExact_eq_div, q16Value_ofInt_eq_div_iff (by decide) (by omega) (by omega), vocValue_eq_ediv hlow hhigh]
    omega
  case rh =>
    obtain ⟨hmin, hmax⟩ := rhValue_range hlow hhigh
    rw [rhExact_eq_div, q16Value_ofInt_eq_div_iff (by decide) (by omega) (by omega), rhValue_eq_ediv hlow hhigh]
    omega
  case tc =>
    obtain ⟨hmin, hmax⟩ := tcValue_range hlow hhigh
    rw [tcExact_eq_div, q16Value_ofInt_eq_div_iff (by decide) (by omega) (by omega), tcValue_eq_ediv hlow hhigh]
    omega
  case tf =>
    obtain ⟨hmin, hmax⟩ := tfValue_range hlow hhigh
    rw [tfExact_eq_div, q16Value_ofInt_eq_div_iff (by decide) (by omega) (by omega), tfValue_eq_ediv hlow hhigh]
    omega

/-! ## The round trip of an offset -/

/-- The delivered °C value is within half a unit of the exact one, and a tick is 328 units (R124). -/
theorem toeTicks_tcValue {t : Int} (hlow : -32768 ≤ t) (hhigh : t ≤ 32767) : toeTicks (tcValue t) = t := by
  obtain ⟨hnear, -⟩ := rneDiv65536_spec (tcValue t * 200)
  have hvalue := tcValue_eq_ediv hlow hhigh
  rw [toeTicks, toffScale]
  omega

/-- An offset of `t / 200` degrees with 25 dividing `t` is the value `CVT.TC` delivers for `t`. -/
theorem toInt_eq_tcValue {x : Word32} {t : Int} (hlow : -32768 ≤ t) (hhigh : t ≤ 32767)
    (hexact : q16Value x = (t : ℚ) / 200) : x.toInt = tcValue t := by
  have hcross : x.toInt * 200 = t * 65536 := by
    rw [q16Value, div_eq_div_iff (by norm_num) (by norm_num)] at hexact
    exact_mod_cast hexact
  rw [tcValue_eq_ediv hlow hhigh]
  omega

/-- With the limit of this hardware the offsets of ticks -6000 to 6000 are accepted. -/
theorem exec_cvtToe_of_eq_tcValue {s : State} {t x : Int} (hlimit : s.config.toffLimitX.val = 0x001E0000)
    (hlow : -6000 ≤ t) (hhigh : t ≤ 6000) (hx : x = tcValue t) :
    exec (.cvtToe x) s = .next (deliver ⟨.ok, ticksRes t⟩ s) := by
  subst hx
  have hmin := tcValue_strictMono.monotone hlow
  have hmax := tcValue_strictMono.monotone hhigh
  have hends : tcValue (-6000) = -0x001E0000 ∧ tcValue 6000 = 0x001E0000 := by decide
  have htoff : s.config.toffLimit = 0x001E0000 := congrArg Nat.cast hlimit
  rw [exec_cvtToe_of_inside (by omega) (by omega), toeTicks_tcValue (by omega) (by omega)]

theorem toInt_ofInt_tcValue {t : Int} (hlow : -32768 ≤ t) (hhigh : t ≤ 32767) :
    (BitVec.ofInt 32 (tcValue t)).toInt = tcValue t := by
  obtain ⟨hmin, hmax⟩ := tcValue_range hlow hhigh
  exact BitVec.toInt_ofInt_eq_self (by norm_num) (by norm_num; omega) (by norm_num; omega)

/-- Settles O47. -/
theorem offsetRoundTrip : Obligations.OffsetRoundTrip := by
  refine ⟨fun s t hlimit hlow hhigh => ?encodeDecoded, fun t hlow hhigh => toeTicks_tcValue hlow hhigh,
    fun s x t hlimit hlow hhigh _ hexact => ?decodeEncoded⟩
  case encodeDecoded =>
    have hoffset : (q16Res (tcValue t)).toInt = tcValue t := toInt_ofInt_tcValue (by omega) (by omega)
    exact ⟨_, _, _, exec_cvtTc t s, rfl, exec_cvtToe_of_eq_tcValue hlimit hlow hhigh hoffset, rfl⟩
  case decodeEncoded =>
    have hx := toInt_eq_tcValue (by omega) (by omega) hexact
    have hp : (BitVec.ofInt 16 t).toInt = t :=
      BitVec.toInt_ofInt_eq_self (by norm_num) (by norm_num; omega) (by norm_num; omega)
    refine ⟨_, _, BitVec.ofInt 16 t, exec_cvtToe_of_eq_tcValue hlimit hlow hhigh hx, rfl, exec_cvtTc _ _, ?_⟩
    rw [hp, ← hx, q16Res, BitVec.ofInt_toInt]
    rfl

end Sys2Proof.Machine

/-! PROOF. The one-shot operations against each other and against the streaming sequences they stand for (40_crc.md
R99), and frames of groups, usable exactly when every group verifies (70_reset_and_hazards.md R173). -/

namespace Sys2Proof.Machine

/-! ## Generated groups -/

/-- A word is its two bytes in wire order (20_memory.md R40). -/
theorem exists_bytes_eq (w : Half) : ∃ b0 b1 : Byte, w = b0 ++ b1 := by
  have hjoin : (w.extractLsb' 8 8 ++ w.extractLsb' 0 8 : BitVec (8 + 8)) = w.extractLsb' 0 (8 + 8) :=
    BitVec.extractLsb'_append_extractLsb'_eq_extractLsb' rfl
  exact ⟨w.extractLsb' 8 8, w.extractLsb' 0 8, (hjoin.trans BitVec.extractLsb'_eq_self).symm⟩

/-- The results of `CRC.GEN1` and `CRC.GEN2` lie as the operands of `CRC.CHK1` and `CRC.CHK2` do. -/
theorem group1Res_eq_argG1 (d c : Byte) : group1Res d c = argG1 d c := rfl

theorem group2Res_eq_argG2 (b0 b1 c : Byte) : group2Res (b0 ++ b1) c = argG2 b0 b1 c := group2Res_append b0 b1 c

/-- Settles O52. -/
theorem generatedGroupsVerify : Obligations.GeneratedGroupsVerify := by
  refine ⟨fun s w => ?twoBytes, fun s d => ?oneByte⟩
  case twoBytes =>
    obtain ⟨b0, b1, rfl⟩ := exists_bytes_eq w
    have hgen := exec_crcGen2 (b0 ++ b1) s
    rw [wireBytes_append, group2Res_eq_argG2] at hgen
    refine ⟨_, deliver ⟨.ok, payload2Res b0 b1⟩ _, _, hgen, rfl, ?_, rfl, rfl⟩
    rw [extractLsb'_argG2_16, extractLsb'_argG2_8, extractLsb'_argG2_0]
    exact exec_crcChk2_of_match rfl
  case oneByte =>
    have hgen := exec_crcGen1 d s
    rw [group1Res_eq_argG1] at hgen
    refine ⟨_, deliver ⟨.ok, byteRes d⟩ _, _, hgen, rfl, ?_, rfl, rfl⟩
    rw [extractLsb'_argG1_8, extractLsb'_argG1_0]
    exact exec_crcChk1_of_match rfl

/-! ## Streaming sequences -/

/-- A seeded and streamed group that is ended: the last response answers the group's checksum. -/
theorem seeded_group_last {i : Instr} {answer : Byte → Response} (hi : EndsGroup i answer) (data : List Byte)
    {s : State} (hmoves : s.moves = presentAll ([.crcSeed] ++ data.map .crcUpd ++ [i])) :
    ∃ t, RunsTo (data.length + 2) s t ∧ t.responses.getLast? = some (answer (crc8 s.config data)) := by
  obtain ⟨t, mid, hrun, -, -, -, hresponses, -⟩ :=
    seeded_group_then data i answer (rest := []) (hmoves.trans (List.append_nil _).symm) hi.decodes hi.answers
  exact ⟨t, hrun, by rw [hresponses, List.getLast?_concat]⟩

/-- The response of a one-shot check of a group with checksum `c`, when `payload` is the group's data. -/
def groupResponse (c e : Byte) (payload : Word32) : Response :=
  if c = e then ⟨.ok, payload⟩ else ⟨.checksumError, crcPairRes e c⟩

theorem exec_crcChk1 (d e : Byte) (s : State) :
    exec (.crcChk1 d e) s = .next (deliver (groupResponse (crc8 s.config [d]) e (byteRes d)) s) := by
  by_cases h : crc8 s.config [d] = e
  · rw [exec_crcChk1_of_match h, groupResponse, if_pos h]
  · rw [exec_crcChk1_of_mismatch h, groupResponse, if_neg h]

theorem exec_crcChk2 (d0 d1 e : Byte) (s : State) :
    exec (.crcChk2 d0 d1 e) s = .next (deliver (groupResponse (crc8 s.config [d0, d1]) e (payload2Res d0 d1)) s) := by
  by_cases h : crc8 s.config [d0, d1] = e
  · rw [exec_crcChk2_of_match h, groupResponse, if_pos h]
  · rw [exec_crcChk2_of_mismatch h, groupResponse, if_neg h]

theorem groupResponse_status_ok_iff (c e : Byte) (payload : Word32) :
    (groupResponse c e payload).status = .ok ↔ c = e := by
  by_cases h : c = e
  · simp [groupResponse, h]
  · simp [groupResponse, h]

/-- `CRC.CHK` and a one-shot check of the same group give the same verdict, and the same `res` on an error. -/
theorem chkResponse_agrees (c e : Byte) (payload : Word32) :
    ((chkResponse c e).status = .ok ↔ (groupResponse c e payload).status = .ok) ∧
    ((groupResponse c e payload).status ≠ .ok →
      (chkResponse c e).res.extractLsb' 0 16 = (groupResponse c e payload).res.extractLsb' 0 16) := by
  rw [Ne, chkResponse_status_ok_iff, groupResponse_status_ok_iff]
  refine ⟨Iff.rfl, fun hne => ?_⟩
  rw [chkResponse_of_ne hne, groupResponse, if_neg hne]

theorem extractLsb'_byteRes (c : Byte) : (byteRes c).extractLsb' 0 8 = c := by
  apply BitVec.eq_of_toNat_eq
  simpa [byteRes] using c.isLt

/-- Settles O53: the streamed group's checksum is the one the one-shot operation computes. -/
theorem oneShotAgreesWithStreaming : Obligations.OneShotAgreesWithStreaming := by
  refine ⟨fun s d hmoves => ?gen1, fun s w hmoves => ?gen2, fun s d e hmoves => ?chk1, fun s d0 d1 e hmoves => ?chk2⟩
  case gen1 =>
    obtain ⟨t, hrun, hlast⟩ := seeded_group_last endsGroup_crcGet [d] hmoves
    exact ⟨t, _, _, _, hrun, hlast, exec_crcGen1 d s, rfl,
      (extractLsb'_byteRes _).trans BitVec.extractLsb'_append_eq_right.symm⟩
  case gen2 =>
    obtain ⟨t, hrun, hlast⟩ := seeded_group_last endsGroup_crcGet (wireBytes w) hmoves
    exact ⟨t, _, _, _, hrun, hlast, exec_crcGen2 w s, rfl,
      (extractLsb'_byteRes _).trans BitVec.extractLsb'_append_eq_right.symm⟩
  case chk1 =>
    obtain ⟨t, hrun, hlast⟩ := seeded_group_last (endsGroup_crcChk e) [d] hmoves
    exact ⟨t, _, _, _, hrun, hlast, exec_crcChk1 d e s, rfl, chkResponse_agrees _ _ _⟩
  case chk2 =>
    obtain ⟨t, hrun, hlast⟩ := seeded_group_last (endsGroup_crcChk e) [d0, d1] hmoves
    exact ⟨t, _, _, _, hrun, hlast, exec_crcChk2 d0 d1 e s, rfl, chkResponse_agrees _ _ _⟩

/-! ## Frames -/

/-- The run of `k` steps from `s` to `t` delivers `k` responses, which may be used exactly when `good`. -/
structure UsableIff (k : Nat) (s t : State) (good : Prop) : Prop where
  runs : RunsTo k s t
  config : t.config = s.config
  responses : ∃ new : List Response, t.responses = s.responses ++ new ∧ new.length = k ∧
    (frameUsable new = true ↔ good)

theorem Response.usable_iff (r : Response) : r.usable = true ↔ r.status = .ok := by simp [Response.usable]

@[simp] theorem frameUsable_append (as bs : List Response) :
    frameUsable (as ++ bs) = (frameUsable as && frameUsable bs) := List.all_append

@[simp] theorem frameUsable_singleton (r : Response) : frameUsable [r] = true ↔ r.status = .ok := by
  simp [frameUsable, Response.usable_iff]

theorem presentAll_append (is js : List Instr) : presentAll (is ++ js) = presentAll is ++ presentAll js :=
  List.map_append

theorem presentAll_length (is : List Instr) : (presentAll is).length = is.length := List.length_map _

theorem UsableIff.trans {k l : Nat} {s t u : State} {p q : Prop} (hst : UsableIff k s t p) (htu : UsableIff l t u q) :
    UsableIff (k + l) s u (p ∧ q) := by
  obtain ⟨as, has, hlenA, hgoodA⟩ := hst.responses
  obtain ⟨bs, hbs, hlenB, hgoodB⟩ := htu.responses
  refine ⟨hst.runs.trans htu.runs, htu.config.trans hst.config, as ++ bs, ?_, ?_, ?_⟩
  · rw [hbs, has, List.append_assoc]
  · rw [List.length_append, hlenA, hlenB]
  · rw [frameUsable_append, Bool.and_eq_true, hgoodA, hgoodB]

/-- A frame whose groups are presented one after the other: its responses may be used exactly if every group is good,
when that is so of each group's own responses. -/
theorem frame_usableIff {α : Type} (ops : α → List Instr) (good : Config → α → Prop)
    (hgroup : ∀ (g : α) (s : State) (rest : List HostMove), s.moves = presentAll (ops g) ++ rest →
      ∃ t, UsableIff (ops g).length s t (good s.config g) ∧ t.moves = rest)
    (frame : List α) {s : State} (hmoves : s.moves = presentAll (frame.flatMap ops)) :
    ∃ t, UsableIff s.moves.length s t (∀ g ∈ frame, good s.config g) := by
  induction frame generalizing s with
  | nil => exact ⟨s, hmoves ▸ run_zero s, rfl, [], by simp [hmoves, frameUsable]⟩
  | cons g frame ih =>
    have hsplit : s.moves = presentAll (ops g) ++ presentAll (frame.flatMap ops) := by
      rw [hmoves, List.flatMap_cons, presentAll_append]
    obtain ⟨u, hsu, hrest⟩ := hgroup g s _ hsplit
    obtain ⟨t, hut⟩ := ih hrest
    have hlen : (ops g).length + u.moves.length = s.moves.length := by
      rw [hsplit, hrest, List.length_append, presentAll_length (ops g)]
    rw [hsu.config] at hut
    refine ⟨t, ?_⟩
    rw [List.forall_mem_cons, ← hlen]
    exact hsu.trans hut

theorem wellFormed_check (g : WireGroup) : g.check.wellFormed = true := by
  cases g <;> rfl

theorem touchesGroup_check (g : WireGroup) : HostMove.touchesGroup (.word (encode g.check)) = false := by
  rw [HostMove.touchesGroup, decodeOfEncode g.check (wellFormed_check g)]
  cases g <;> rfl

/-- The check of a wire group answers from the checksum of its data. -/
theorem exec_check (g : WireGroup) : ∃ payload, ∀ s,
    exec g.check s = .next (deliver (groupResponse (crc8 s.config g.data) g.crcByte payload) s) := by
  cases g with
  | one d e => exact ⟨_, exec_crcChk1 d e⟩
  | two d0 d1 e => exact ⟨_, exec_crcChk2 d0 d1 e⟩

/-- A wire group's one-shot check delivers one response, which may be used exactly if the group verifies. -/
theorem wireGroup_usableIff (g : WireGroup) (s : State) (rest : List HostMove)
    (hmoves : s.moves = presentAll [g.check] ++ rest) :
    ∃ t, UsableIff 1 s t (crc8 s.config g.data = g.crcByte) ∧ t.moves = rest := by
  obtain ⟨payload, hexec⟩ := exec_check g
  have hstep := (step_of_presented hmoves (decodeOfEncode g.check (wellFormed_check g))).trans (hexec _)
  refine ⟨_, ⟨runsTo_one hstep, rfl, _, rfl, rfl, ?_⟩, rfl⟩
  rw [frameUsable_singleton, groupResponse_status_ok_iff]

/-- A group verified by `CRC.VERIFY` delivers responses that may be used exactly if it verifies: only the last can be
an error (30_encoding.md R68). -/
theorem crcVerify_usableIff (g : List Byte × Byte) (s : State) (rest : List HostMove)
    (hmoves : s.moves = presentAll (PseudoOp.crcVerify g.1 g.2).expand ++ rest) :
    ∃ t, UsableIff (PseudoOp.crcVerify g.1 g.2).expand.length s t (crc8 s.config g.1 = g.2) ∧ t.moves = rest := by
  have hends := endsGroup_crcChk g.2
  obtain ⟨t, mid, hrun, hrest, hconfig, -, hresponses, hlen, hok⟩ :=
    seeded_group_then g.1 (.crcChk g.2) (chkResponse · g.2) hmoves hends.decodes hends.answers
  have hexpand : (PseudoOp.crcVerify g.1 g.2).expand.length = g.1.length + 2 := by
    simp [PseudoOp.expand]
  have hmid : frameUsable mid = true := List.all_eq_true.mpr fun r hr => (Response.usable_iff r).mpr (hok r hr)
  rw [hexpand]
  refine ⟨t, ⟨hrun, hconfig, mid ++ [chkResponse (crc8 s.config g.1) g.2], ?_, ?_, ?_⟩, hrest⟩
  · rw [hresponses, List.append_assoc]
  · rw [List.length_append, hlen, List.length_singleton]
  · rw [frameUsable_append, hmid, Bool.true_and, frameUsable_singleton, chkResponse_status_ok_iff]

/-- The one-shot checks of a frame leave the group in progress alone (70_reset_and_hazards.md R170). -/
theorem crc_kept_of_checks {s t : State} (frame : List WireGroup)
    (hmoves : s.moves = presentAll (frame.map WireGroup.check)) (hrun : RunsTo s.moves.length s t) : t.crc = s.crc := by
  have hnone : s.moves.filter HostMove.touchesGroup = [] := by
    rw [hmoves, presentAll, List.map_map, List.filter_eq_nil_iff, List.forall_mem_map]
    intro g _
    simp [touchesGroup_check]
  rw [crc_of_run hrun, ← foldl_crcAfterMove_filter, hnone, List.foldl_nil]

/-- Settles O59: each group by itself, then the groups of the frame one after the other. -/
theorem frameUsableIffEveryGroupVerifies : Obligations.FrameUsableIffEveryGroupVerifies := by
  refine ⟨fun s frame hmoves => ?oneShot, fun s frame hmoves => ?streamed⟩
  case oneShot =>
    obtain ⟨t, ht⟩ := frame_usableIff (fun g : WireGroup => [g.check]) (fun cfg g => crc8 cfg g.data = g.crcByte)
      wireGroup_usableIff frame (hmoves.trans (by rw [List.map_eq_flatMap]))
    have hcrc := crc_kept_of_checks frame hmoves ht.runs
    have hlen : s.moves.length = frame.length := by
      rw [hmoves, presentAll_length, List.length_map]
    rw [hlen] at ht
    obtain ⟨new, hresponses, hnew, hgood⟩ := ht.responses
    exact ⟨t, new, ht.runs, hcrc, ht.config, hresponses, hnew, hgood⟩
  case streamed =>
    obtain ⟨t, ht⟩ := frame_usableIff (fun g => (PseudoOp.crcVerify g.1 g.2).expand)
      (fun cfg g => crc8 cfg g.1 = g.2) crcVerify_usableIff frame hmoves
    obtain ⟨new, hresponses, hnew, hgood⟩ := ht.responses
    exact ⟨t, new, ht.runs, ht.config, hresponses, hnew, hgood⟩

end Sys2Proof.Machine

/-! PROOF. The assembler (30_encoding.md R67): a line stands for operations, whose words are legal, and every operation
the decoder can answer is written by a line of its own. -/

namespace Sys2Proof.Machine

/-! ## Lines and words -/

/-- The word of any operation is legal: it selects the operation's row. -/
theorem isLegal_encode (i : Instr) : isLegal (encode i) = true := by
  obtain ⟨r, hr, -, hsel, -⟩ := encodesItsRow i
  exact List.any_eq_true.mpr ⟨r, hr, hsel⟩

/-- Every line but `.WORD` assembles to the words of its operations. -/
theorem assemble_of_not_isWord {line : AsmLine} (h : line.isWord = false) :
    assemble line = line.operations.map fun is => is.map encode := by
  cases line with
  | word w => cases h
  | _ => rfl

/-- The line that writes an operation: bytes and patterns as numbers, ticks as a decimal integer. -/
def lineOf : Instr → AsmLine
  | .crcSeed => .crcSeed
  | .crcUpd d => .crcUpd d.toNat
  | .crcGet => .crcGet
  | .crcChk e => .crcChk e.toNat
  | .crcGen1 d => .crcGen1 d.toNat
  | .crcGen2 w => .crcGen2 w.toNat
  | .crcChk1 d e => .crcChk1 d.toNat e.toNat
  | .crcChk2 d0 d1 e => .crcChk2 d0.toNat d1.toNat e.toNat
  | .cvtVoc t => .cvtVoc (.decimal t)
  | .cvtRh t => .cvtRh (.decimal t)
  | .cvtTc t => .cvtTc (.decimal t)
  | .cvtTf t => .cvtTf (.decimal t)
  | .cvtToe x => .cvtToe (.pattern (BitVec.ofInt 32 x).toNat)

theorem lineOf_isWord (i : Instr) : (lineOf i).isWord = false := by
  cases i <;> rfl

theorem asmByte_toNat (b : Byte) : asmByte b.toNat = some b := by
  simp [asmByte, b.isLt]

theorem asmHalf_toNat (h : Half) : asmHalf h.toNat = some h := by
  simp [asmHalf, h.isLt]

theorem asmTicks_decimal {t : Int} (h : ticksInRange t = true) : asmTicks (.decimal t) = some t := if_pos h

theorem asmOffset_pattern {x : Int} (h : offsetInRange x = true) :
    asmOffset (.pattern (BitVec.ofInt 32 x).toNat) = some x := by
  simp only [offsetInRange, decide_eq_true_eq] at h
  rw [asmOffset, if_pos (BitVec.isLt _), BitVec.ofNat_toNat, BitVec.setWidth_eq,
    BitVec.toInt_ofInt_eq_self (by norm_num) (by norm_num; omega) (by norm_num; omega)]

/-- The line of an operation with operands in range stands for that operation. -/
theorem operations_lineOf {i : Instr} (hwf : i.wellFormed = true) : (lineOf i).operations = some [i] := by
  cases i with
  | crcSeed | crcGet => rfl
  | crcUpd d | crcChk d | crcGen1 d => simp [lineOf, AsmLine.operations, asmByte_toNat]
  | crcGen2 w => simp [lineOf, AsmLine.operations, asmHalf_toNat]
  | crcChk1 | crcChk2 => simp [lineOf, AsmLine.operations, asmByte_toNat]
  | cvtVoc t | cvtRh t | cvtTc t | cvtTf t => simp [lineOf, AsmLine.operations, asmTicks_decimal hwf]
  | cvtToe x =>
    rw [lineOf, AsmLine.operations, asmOffset_pattern hwf]
    rfl

/-- `.WORD` writes any word. -/
theorem assemble_word_toNat (w : OpWord) : assemble (.word w.toNat) = some [w] := by
  rw [assemble, if_pos w.isLt, BitVec.ofNat_toNat, BitVec.setWidth_eq]

/-! ## Decimal offsets -/

/-- `=v` assembles to the integer `v * 65536`, if it is one and in range. -/
theorem asmOffset_decimal_iff (m x : Int) (k : Nat) :
    asmOffset (.decimal m k) = some x ↔ m * 65536 = x * 10 ^ k ∧ offsetInRange x = true := by
  have hpos : (10 : Int) ^ k ≠ 0 := by positivity
  simp only [asmOffset]
  constructor
  · intro h
    split at h
    case isTrue hfits =>
      obtain rfl := Option.some.inj h
      exact ⟨(Int.ediv_mul_cancel_of_emod_eq_zero hfits.1).symm, hfits.2⟩
    case isFalse => cases h
  · rintro ⟨hcross, hrange⟩
    rw [hcross, Int.mul_ediv_cancel _ hpos, if_pos ⟨Int.mul_emod_left _ _, hrange⟩]

/-- Settles O57: a legal word is written by the line of the operation it decodes to; the texts by evaluation. -/
theorem assemblerProducesLegalWords : Obligations.AssemblerProducesLegalWords := by
  refine ⟨fun line ws hline hws w hw => ?legal, fun w hlegal => ?reachable, assemble_word_toNat,
    fun m x k => ?decimal, by decide +kernel⟩
  case legal =>
    rw [assemble_of_not_isWord hline, Option.map_eq_some_iff] at hws
    obtain ⟨is, -, rfl⟩ := hws
    obtain ⟨i, -, rfl⟩ := List.mem_map.mp hw
    exact isLegal_encode i
  case reachable =>
    obtain ⟨i, hdecode⟩ := (isLegal_iff_decode_ok w).mp hlegal
    obtain ⟨hwf, rfl⟩ := encodeOfDecode w i hdecode
    refine ⟨lineOf i, lineOf_isWord i, ?_⟩
    rw [assemble_of_not_isWord (lineOf_isWord i), operations_lineOf hwf]
    rfl
  case decimal =>
    have hcross : (x : ℚ) = (m : ℚ) / 10 ^ k * 65536 ↔ m * 65536 = x * 10 ^ k := by
      rw [div_mul_eq_mul_div, eq_div_iff (by positivity), eq_comm]
      norm_cast
    have hrange : offsetInRange x = true ↔ -2 ^ 31 ≤ x ∧ x ≤ 2 ^ 31 - 1 := by
      simp [offsetInRange]
    rw [asmOffset_decimal_iff, hcross, hrange]

end Sys2Proof.Machine
